-- ==== Sys2Proof/Word.lean ====
section
/-! DEFINITION. The words of CCFC: bytes, byte sequences and the form of a byte-addressed buffer
(00_scope.md section 5.1; 20_memory.md R40). -/

namespace Sys2Proof

/-- A byte: an unsigned integer 0 to 255 (00_scope.md section 5.1). -/
abbrev Byte := BitVec 8

/-- A byte sequence, first byte first (00_scope.md section 5.1). -/
abbrev Bytes := List Byte

/-- A byte-addressed buffer: the bytes that hold a value, with their addresses strictly rising. An
address that is not listed holds NO VALUE (20_memory.md R41; log 1). -/
abbrev Memory := List (Nat × BitVec 8)

end Sys2Proof
end

