-- ==== Sys2Proof/Machine/Failure.lean ====
section
/-! DEFINITION. The eight typed failures and their RES_ERR codes (60_exceptions.md R210). -/

namespace Sys2Proof.Machine

/-- The eight failures, in the taxonomy's order (R210). They are results of an operation, not stops of
the model. -/
inductive Failure where
  | transportError
  | frameFormatError
  | checksumMismatch
  | retryExhausted
  | deviceNack
  | illegalCommand
  | invalidIndex
  | connectionStateError
  deriving DecidableEq, Repr

/-- The code of a failure in RES_ERR (R210, D5); 0 is success. -/
def failureCode (f : Failure) : BitVec 4 :=
  match f with
  | .transportError => 1#4
  | .frameFormatError => 2#4
  | .checksumMismatch => 3#4
  | .retryExhausted => 4#4
  | .deviceNack => 5#4
  | .illegalCommand => 6#4
  | .invalidIndex => 7#4
  | .connectionStateError => 8#4

end Sys2Proof.Machine
end

