-- ==== Sys2Proof/Machine/Bitset.lean ====
section
/-! DEFINITION. BitsetCodec: the pure functions BSENC, BSDEC and BSDECN (41_bitset.md R110 to R115). -/

namespace Sys2Proof.Machine

/-- One index of BSENC's loop (R110): `pos = 23 − t`, and bit `7 − (pos mod 8)` of byte `pos div 8` is
set. -/
def bsSetIndex (m : Bytes) (t : Byte) : Bytes :=
  let pos := 23 - t.toNat
  m.modify (pos / 8) (· ||| (1#8 <<< (7 - pos % 8)))

/-- BSENC (R110): the whole list is checked first (R111), then every index sets its bit. -/
def bsenc (l : Bytes) : Except Failure Bytes :=
  if l.all (fun t => t.toNat ≤ 23) then
    .ok (l.foldl bsSetIndex [0x00#8, 0x00#8, 0x00#8])
  else .error .invalidIndex

/-- BSDEC (R112) in register form (R113): the 24-bit number whose most significant byte is the first
one; bit `i` of byte `b` is index `8·(2 − b) + i`. -/
def bsdec (m0 m1 m2 : Byte) : BitVec 24 := m0 ++ m1 ++ m2

/-- The members of a set in register form (R113), as an index list with rising entries. The block forms
no such list: it is how a decoded set is given back to BSENC in the inverse law (R114). -/
def bsIndices (m : BitVec 24) : Bytes :=
  ((List.range 24).filter m.getLsbD).map (BitVec.ofNat 8)

/-- BSDECN (R115): BSDEC of the input, of 0 to 3 bytes, with missing trailing bytes 0x00. -/
def bsdecn (m : Bytes) : BitVec 24 := bsdec (m.getD 0 0x00#8) (m.getD 1 0x00#8) (m.getD 2 0x00#8)

end Sys2Proof.Machine
end

