-- ==== Sys2Proof/Config.lean ====
section
/-! DEFINITION. What an instance fixes (00_scope.md R4, R5), the forms of the oracle's answers
(20_memory.md R45 to R47) and the free values. -/

namespace Sys2Proof

/-- The parameters of an instance (00_scope.md R5). The model holds them in State and never writes
them, so that a claim about every state is a claim about every value of them (log 4). MAX_RETRY and
READ_CHUNK_MAX are at least 1: each is held as its predecessor. -/
structure Config where
  maxRetryPred : Nat
  readChunkMaxPred : Nat
  idPartOff : Nat
  idSerialOff : Nat
  idAssetOff : Nat
  deriving DecidableEq, Repr

/-- MAX_RETRY: the most transport reads a transaction makes, at least 1 (R5, D7). -/
def Config.maxRetry (c : Config) : Nat := c.maxRetryPred + 1

/-- READ_CHUNK_MAX: the most bytes one read returns, at least 1 (R5, D8). -/
def Config.readChunkMax (c : Config) : Nat := c.readChunkMaxPred + 1

/-- RXCAP: the capacity of the accumulator (R5). -/
def Config.rxCap (c : Config) : Nat := c.maxRetry * c.readChunkMax

/-- IDMINLEN: the shortest payload an IDENT answer may have (30_encoding.md R82); the lengths 15, 11
and 6 are those of R4. -/
def Config.idMinLen (c : Config) : Nat :=
  max (c.idPartOff + 15) (max (c.idSerialOff + 11) (c.idAssetOff + 6))

/-- The oracle's answer to `TWrite s` (20_memory.md R45): `ok` puts all of `s` on the wire, `err sent`
the first `sent` bytes of it (any prefix). -/
inductive WriteAnswer where
  | ok
  | err (sent : Nat)
  deriving DecidableEq, Repr, Inhabited

/-- The oracle's answer to `TRead` (20_memory.md R46). Before it answers, the device may have put more
bytes, `arrived`, at the end of WIN (R44). `bytes` takes `n` bytes from the front of WIN, or as many
as there are and READ_CHUNK_MAX admits; every chunk R46 admits is one of these, and no other is. -/
inductive ReadAnswer where
  | bytes (arrived : Bytes) (n : Nat)
  | err (arrived : Bytes)
  deriving DecidableEq, Repr, Inhabited

/-- The oracle's answer to `TOpen` (20_memory.md R47). -/
inductive OpenAnswer where
  | ok
  | err
  deriving DecidableEq, Repr, Inhabited

/-- FREE VALUES. What the oracle answers to the transport call number `k` when State lists no answer
for it: any value (93_implementation_defined.md U5 to U7, U18, U21; log 2). -/
opaque Config.freeWriteAnswer : Nat → WriteAnswer
/-- Free value, see `Config.freeWriteAnswer` (log 2). -/
opaque Config.freeReadAnswer : Nat → ReadAnswer
/-- Free value, see `Config.freeWriteAnswer` (log 2). -/
opaque Config.freeOpenAnswer : Nat → OpenAnswer

/-- FREE VALUE. Whether an operation presented while another is in progress waits (true) or is lost
(false): "waits or is lost as the host interface has it" (43_reader.md R141; log 5). -/
opaque Config.busyRequestWaits : Bool

/-- FREE VALUES. The parameters of the machine that State.reset describes: OPEN in R5 (log 4). -/
opaque Config.openMaxRetryPred : Nat
/-- Free value: READ_CHUNK_MAX − 1 of State.reset (log 4). -/
opaque Config.openReadChunkMaxPred : Nat
/-- Free value: ID_PART_OFF of State.reset (log 4). -/
opaque Config.openIdPartOff : Nat
/-- Free value: ID_SERIAL_OFF of State.reset (log 4). -/
opaque Config.openIdSerialOff : Nat
/-- Free value: ID_ASSET_OFF of State.reset (log 4). -/
opaque Config.openIdAssetOff : Nat

/-- The instance State.reset describes: every parameter a free value (log 4). -/
def Config.unspecified : Config where
  maxRetryPred := Config.openMaxRetryPred
  readChunkMaxPred := Config.openReadChunkMaxPred
  idPartOff := Config.openIdPartOff
  idSerialOff := Config.openIdSerialOff
  idAssetOff := Config.openIdAssetOff

end Sys2Proof
end

