-- ==== Sys2Proof/Machine/State.lean ====
section
/-! DEFINITION. The state of CCFC as plain data (10_state.md R10 to R27), the model's stops, and the
state after reset (10_state.md R27, 70_reset_and_hazards.md R240).

A register whose value is an Option can HOLD NO VALUE, a state the spec itself defines: R17 makes every
result data register hold no value in ACCEPT and after a failure, R27 gives "no value" as the reset
state of the registers listed there, and a read of a register that holds no value is a fault of the
model (R17, R27, R243; log 1). -/

namespace Sys2Proof.Machine

open Sys2Proof

/-- PHASE (R11): the step the block takes next. The values 6 and 7 are never taken. -/
inductive Phase where
  | idle
  | send
  | recv
  | parse
  | hsack
  | decode
  deriving DecidableEq, Repr

/-- RES_BILL[i] (R21): mantissa, exponent in two's complement, country code. -/
structure BillEntry where
  mant : Byte
  exp : BitVec 9
  cc : Byte × Byte × Byte
  deriving DecidableEq, Repr

/-- The result data registers (R17 to R22). -/
structure Results where
  raw : Option Bytes
  rawLen : Option Nat
  status : Option Byte
  param : Option Byte
  setA : Option (BitVec 24)
  setB : Option (BitVec 24)
  bill : Option (List BillEntry)
  part : Option Bytes
  serial : Option Bytes
  asset : Option Bytes
  deriving DecidableEq, Repr

/-- Every result data register holds no value (R17). -/
def Results.noValue : Results where
  raw := none
  rawLen := none
  status := none
  param := none
  setA := none
  setB := none
  bill := none
  part := none
  serial := none
  asset := none

/-- One call of the transport (20_memory.md R45 to R47), as the transport sees it. -/
inductive Call where
  | topen
  | tclose
  | twrite (s : Bytes)
  | tread
  deriving DecidableEq, Repr

/-- Everything beyond the block that its steps touch: the streams WOUT and WIN (R40, R43), the oracle's
answers still to come (R44; log 2), and the calls made so far, oldest first. -/
structure Wire where
  wout : Bytes
  win : Bytes
  writes : List WriteAnswer
  reads : List ReadAnswer
  opens : List OpenAnswer
  calls : List Call
  deriving DecidableEq, Repr

/-- The registers the host can read (10_state.md section 1, column "host-visible"). -/
inductive HostReg where
  | busy
  | linkOpen
  | resValid
  | resErr
  | resRaw
  | resRawLen
  | resStatus
  | resParam
  | resSetA
  | resSetB
  | resBill (i : Fin 24)
  | resPart
  | resSerial
  | resAsset
  deriving DecidableEq, Repr

/-- What a host read returns. -/
inductive HostValue where
  | bit (b : Bool)
  | code (c : BitVec 4)
  | byte (b : Byte)
  | count (n : Nat)
  | mask (m : BitVec 24)
  | bytes (s : Bytes)
  | entry (e : BillEntry)
  deriving DecidableEq, Repr

/-- One thing the outside does to the block between two of its steps (log 6): the host writes an operand
register (R16), presents an operation (43_reader.md R141) or reads a register (R17); the device puts
bytes into WIN (20_memory.md R44); the block is reset (70_reset_and_hazards.md R240, R241). -/
inductive Input where
  | writeHop (w : BitVec 10)
  | writeRaw (s : Bytes)
  | writeRawLen (n : Byte)
  | writeSetA (l : Bytes)
  | writeSetB (l : Bytes)
  | present
  | read (r : HostReg)
  | deviceSends (s : Bytes)
  | reset
  deriving DecidableEq, Repr

/-- Whose turn it is: the block's, or an input's. -/
inductive Turn where
  | block
  | input (x : Input)
  deriving DecidableEq, Repr

/-- The registers and buffers that can hold no value. -/
inductive Reg where
  | hop
  | opRaw
  | opRawLen
  | opSetA
  | opSetB
  | curCode
  | rspCtrl
  | txbuf
  | rxbuf
  | resErr
  | resRaw
  | resRawLen
  | resStatus
  | resParam
  | resSetA
  | resSetB
  | resBill
  | resPart
  | resSerial
  | resAsset
  deriving DecidableEq, Repr

/-- Why the model stops with a fault. Every one is SAFE: the model stops where the spec gives no
meaning. -/
inductive Fault where
  /-- A step or a host read reads a register or buffer byte that holds no value: for HOP and the operand
  registers 70_reset_and_hazards.md R243 (U9), for CUR_CODE, RSP_CTRL and TXBUF R27 (U19), for RXBUF
  20_memory.md R41, for the result registers R17 (U8). Raised by fetching HOP, by the encode hooks, by
  SEND, RECV, PARSE and DECODE, and by host reads. Safe. -/
  | noValue (r : Reg)
  /-- The host reads RES_ERR or a result data register while RES_VALID = 0 (R15, R17,
  70_reset_and_hazards.md R252). Raised by host reads. Safe. -/
  | resultNotValid (r : HostReg)
  /-- RECV would append past index RXCAP − 1 of RXBUF, an address that does not exist (R24, 20_memory.md
  R40). Raised by RECV; no state that meets the invariant reaches it (43_reader.md R146). Safe. -/
  | noSuchAddress
  deriving DecidableEq, Repr

/-- Why the model refuses. Every one is SAFE: no next state is given. -/
inductive Refusal where
  /-- An arm of exec that has no meaning yet. Raised by exec alone. Safe. -/
  | notModelled (mnemonic : String)
  /-- A HOP word outside the sixteen (30_encoding.md R85, D33). Raised by step. Safe. -/
  | reservedOperation (w : BitVec 10)
  /-- A host write to an operand register while PHASE is not IDLE (20_memory.md R55,
  70_reset_and_hazards.md R252, D30). Raised by step. Safe. -/
  | operandWriteWhileBusy
  /-- An operand the registers cannot hold: a raw payload over 249 bytes, an index list over 255 entries
  (R16, 30_encoding.md R74; U12). Raised by step, and by the raw encode hook on states no run reaches.
  Safe. -/
  | operandTooLong
  deriving DecidableEq, Repr

/-- The whole state (R10), the parameters (00_scope.md R5), the wire (R26) and the model's own fields
`schedule`, `request` and `hostBus` (logs 6 and 15). -/
structure State where
  cfg : Config
  phase : Phase
  linkOpen : Bool
  attempt : Nat
  curCode : Option Byte
  rspCtrl : Option Bool
  tx : Memory
  txLen : Byte
  rx : Memory
  rxLen : Nat
  hop : Option (BitVec 10)
  opRaw : Memory
  opRawLen : Option Byte
  opSetA : Option Bytes
  opSetB : Option Bytes
  resValid : Bool
  resErr : Option (BitVec 4)
  res : Results
  wire : Wire
  schedule : List Turn
  request : Bool
  hostBus : Option HostValue
  deriving DecidableEq, Repr

/-- An outcome of this machine. -/
abbrev Result := Host.Outcome State Fault Refusal

/-- The wire before anything has happened (DESIGN CHOICE, log 3: the spec gives the transport no reset
state). -/
def Wire.untouched : Wire where
  wout := []
  win := []
  writes := []
  reads := []
  opens := []
  calls := []

/-- The block's registers and buffers at their reset values (R27, R240); everything outside the block
(parameters, wire, schedule, host bus) is as in `s`. A presented operation that was not accepted is
dropped (DESIGN CHOICE, log 7). -/
def State.resetBlock (s : State) : State :=
  { s with
    phase := .idle
    linkOpen := false
    attempt := 0
    curCode := none
    rspCtrl := none
    tx := []
    txLen := 0x00#8
    rx := []
    rxLen := 0
    hop := none
    opRaw := []
    opRawLen := none
    opSetA := none
    opSetB := none
    resValid := false
    resErr := none
    res := Results.noValue
    request := false }

/-- The state after reset (R27, R240), with the parameters free (log 4) and the world outside untouched
(log 3). -/
def State.reset : State where
  cfg := Config.unspecified
  phase := .idle
  linkOpen := false
  attempt := 0
  curCode := none
  rspCtrl := none
  tx := []
  txLen := 0x00#8
  rx := []
  rxLen := 0
  hop := none
  opRaw := []
  opRawLen := none
  opSetA := none
  opSetB := none
  resValid := false
  resErr := none
  res := Results.noValue
  wire := Wire.untouched
  schedule := []
  request := false
  hostBus := none

end Sys2Proof.Machine
end

