-- ==== Sys2Proof/Machine/DecodeHooks.lean ====
section
/-! DEFINITION. The decode hooks: how a command turns the response payload into result registers
(44_commands.md R172, R174, R178, R181, R182, R188 to R190; 30_encoding.md R78 to R83). A payload too
short is a FrameFormatError (R188); bytes beyond those read are ignored (R189). -/

namespace Sys2Proof.Machine

open Sys2Proof

/-- `DECODE_discard` (R190): no result data register is written. -/
def decodeDiscard (_ : Config) (_ : Bytes) (r : Results) : Except Failure Results := .ok r

/-- `DECODE_raw` (R190): RES_RAW ← P, RES_RAWLEN ← len(P). -/
def decodeRaw (_ : Config) (p : Bytes) (r : Results) : Except Failure Results :=
  .ok { r with raw := some p, rawLen := some p.length }

/-- `DECODE_poll` (R174): status, and the parameter or 0x00. -/
def decodePoll (_ : Config) (p : Bytes) (r : Results) : Except Failure Results :=
  match p with
  | [] => .error .frameFormatError
  | st :: rest => .ok { r with status := some st, param := some (rest.headD 0x00#8) }

/-- `DECODE_getstatus` (R172): enabled set from P[0..2], security set from P[4..6] as far as there; P[3]
is skipped. -/
def decodeGetStatus (_ : Config) (p : Bytes) (r : Results) : Except Failure Results :=
  match p with
  | m0 :: m1 :: m2 :: rest =>
    .ok { r with setA := some (bsdec m0 m1 m2), setB := some (bsdecn ((rest.drop 1).take 3)) }
  | _ => .error .frameFormatError

/-- EXPDEC (R182): the biased exponent byte as a 9-bit two's complement number; 0x80 gives +128. -/
def expDec (b : Byte) : BitVec 9 :=
  if b.toNat > 0x80 then -(b.setWidth 9 - 128#9) else b.setWidth 9

/-- Entry `i` of a bill table payload (30_encoding.md R80): mantissa at 5i, country code at 5i+1 to
5i+3, exponent byte at 5i+4 (D19). -/
def billEntryAt (p : Bytes) (i : Nat) : BillEntry where
  mant := p.getD (5 * i) 0x00#8
  exp := expDec (p.getD (5 * i + 4) 0x00#8)
  cc := (p.getD (5 * i + 1) 0x00#8, p.getD (5 * i + 2) 0x00#8, p.getD (5 * i + 3) 0x00#8)

/-- `DECODE_getbilltable` (R181): always all 24 entries. -/
def decodeGetBillTable (_ : Config) (p : Bytes) (r : Results) : Except Failure Results :=
  if p.length < 120 then .error .frameFormatError
  else .ok { r with bill := some ((List.range 24).map (billEntryAt p)) }

/-- `DECODE_ident` (R178, 30_encoding.md R82): three slices at the instance's offsets. -/
def decodeIdent (c : Config) (p : Bytes) (r : Results) : Except Failure Results :=
  if p.length < c.idMinLen then .error .frameFormatError
  else .ok { r with
    part := some ((p.drop c.idPartOff).take 15)
    serial := some ((p.drop c.idSerialOff).take 11)
    asset := some ((p.drop c.idAssetOff).take 6) }

end Sys2Proof.Machine
end

