-- ==== Sys2Proof/Machine/Checksum.lean ====
section
/-! DEFINITION. ChecksumEngine: the pure function CRC16 (40_checksum.md R100 to R106). -/

namespace Sys2Proof.Machine

/-- One shift of the working register: right by one, and the polynomial 0x8408 if the bit shifted out
was 1 (R100). -/
def crcShift (crc : BitVec 16) : BitVec 16 :=
  if crc.getLsbD 0 then (crc >>> 1) ^^^ 0x8408#16 else crc >>> 1

/-- `n` shifts of the working register. -/
def crcShifts : Nat → BitVec 16 → BitVec 16
  | 0, crc => crc
  | n + 1, crc => crcShifts n (crcShift crc)

/-- One byte: XORed into the low byte of the register, then eight shifts (R100). -/
def crcByte (crc : BitVec 16) (b : Byte) : BitVec 16 :=
  crcShifts 8 (crc ^^^ b.setWidth 16)

/-- The working register after the bytes of `s`, started at `crc`. -/
def crcRun (crc : BitVec 16) : Bytes → BitVec 16
  | [] => crc
  | b :: s => crcRun (crcByte crc b) s

/-- CRC16 (R100): the register starts at 0x0000 and its final value is the result (R102). -/
def crc16 (s : Bytes) : BitVec 16 := crcRun 0x0000#16 s

/-- One input bit of the bit-serial form (R105): `fb ← crc[0] xor bit`, shift, XOR if `fb` is 1. -/
def crcSerialBit (crc : BitVec 16) (bit : Bool) : BitVec 16 :=
  if crc.getLsbD 0 ^^ bit then (crc >>> 1) ^^^ 0x8408#16 else crc >>> 1

/-- The bits of `s`, each byte from bit 0 to bit 7 (R105). -/
def serialBits (s : Bytes) : List Bool := s.flatMap (fun b => (List.range 8).map b.getLsbD)

/-- CRC16 in the bit-serial form of R105. The machine uses `crc16`; that the two agree is a statement. -/
def crc16Serial (s : Bytes) : BitVec 16 := (serialBits s).foldl crcSerialBit 0x0000#16

/-- `lo8 v = v[7:0]` (00_scope.md section 5.1). -/
def lo8 (v : BitVec 16) : Byte := v.extractLsb' 0 8

/-- `hi8 v = v[15:8]` (00_scope.md section 5.1). -/
def hi8 (v : BitVec 16) : Byte := v.extractLsb' 8 8

/-- The two checksum bytes in wire order, low byte first (20_memory.md R48). -/
def crcTrailer (s : Bytes) : Bytes := [lo8 (crc16 s), hi8 (crc16 s)]

end Sys2Proof.Machine
end

