-- ==== Sys2Proof/Machine/Frame.lean ====
section
/-! DEFINITION. FrameCodec, the building side: BUILDREQ and the handshake frame (42_frame.md R120 to
R122), and the completeness test of the reader (43_reader.md R144). The parsing side is
Sys2Proof/Decode.lean. -/

namespace Sys2Proof.Machine

/-- A frame without its trailer: start code, address, length byte, command or echo byte, payload
(30_encoding.md R70; START = 0x02 and ADDR = 0x03 by 00_scope.md R4). -/
def frameBody (len code : Byte) (p : Bytes) : Bytes := 0x02#8 :: 0x03#8 :: len :: code :: p

/-- A frame with its valid trailer (R70, R75). -/
def sealFrame (len code : Byte) (p : Bytes) : Bytes :=
  frameBody len code p ++ crcTrailer (frameBody len code p)

/-- BUILDREQ (R120): the length byte is `6 + len(p)` (30_encoding.md R74). -/
def buildReq (code : Byte) (p : Bytes) : Bytes := sealFrame (BitVec.ofNat 8 (6 + p.length)) code p

/-- ACKFRAME (R122): the handshake ACK. -/
def ackFrame : Bytes := buildReq 0x00#8 []

/-- COMPLETE (43_reader.md R144) on the count RXLEN and the byte RXBUF[2]. The comparison is of
integers, not modular. -/
def frameComplete (rxLen : Nat) (len : Byte) : Bool :=
  if rxLen < 6 then false
  else if len ≠ 0x00#8 ∧ len.toNat ≠ rxLen then false
  else true

end Sys2Proof.Machine
end

