-- ==== Sys2Proof/Syntax.lean ====
section
/-! DEFINITION. The instructions of CCFC: one constructor per row of spec/opcode_table.json
(30_encoding.md R72, R77, R91). -/

namespace Sys2Proof

/-- The sixteen host operations (R72) and the four response classes (R77). A host operation names no
operand: its operands stand in the host operand registers (10_state.md R16). A response class carries
the fields of its frame that the parser does not fix: the length byte, which it does not check
(42_frame.md R128), and for RSP.DATA the echo byte and the payload (R127). -/
inductive Instr where
  | reset
  | getStatus
  | setSecurity
  | poll
  | enable
  | stack
  | returnBill
  | ident
  | hold
  | barcode
  | getBillTable
  | getCrc32
  | ack
  | nack
  | openLink
  | closeLink
  | rspAck (len : Byte)
  | rspNack (len : Byte)
  | rspIllegal (len : Byte)
  | rspData (len echo : Byte) (payload : Bytes)
  deriving DecidableEq, Repr

end Sys2Proof
end

