-- ==== Sys2Proof/WellFormed.lean ====
section
/-! DEFINITION. Which terms of Instr stand for something the machine can meet. -/

namespace Sys2Proof

/-- The three echo bytes that make a 6-byte response a control reply (30_encoding.md R77, R86). -/
def isControlEcho (e : Byte) : Bool := e == 0x00#8 || e == 0xFF#8 || e == 0x30#8

/-- Every host operation is well formed, and every control reply; a substantive response with an empty
payload is 6 bytes long, so its echo byte is none of the three control values (R77, 42_frame.md
R127). -/
def Instr.wf (i : Instr) : Bool :=
  match i with
  | .reset => true
  | .getStatus => true
  | .setSecurity => true
  | .poll => true
  | .enable => true
  | .stack => true
  | .returnBill => true
  | .ident => true
  | .hold => true
  | .barcode => true
  | .getBillTable => true
  | .getCrc32 => true
  | .ack => true
  | .nack => true
  | .openLink => true
  | .closeLink => true
  | .rspAck _ => true
  | .rspNack _ => true
  | .rspIllegal _ => true
  | .rspData _ echo [] => !isControlEcho echo
  | .rspData _ _ (_ :: _) => true

/-- The check as a proposition. -/
abbrev Instr.WellFormed (i : Instr) : Prop := i.wf = true

end Sys2Proof
end

