-- ==== Sys2Proof/Decode.lean ====
section
/-! DEFINITION. Decoding and encoding. A host operation is read from the 10-bit word HOP (30_encoding.md
R71, R72); a response class is read from the accumulated frame (42_frame.md R123). The header words of
the opcode table (R91) are read by `decodeTableWord`. -/

namespace Sys2Proof

open Sys2Proof.Machine

/-- Where an instruction's bits stand when the machine reads it: the register HOP, or the bytes of a
response in RXBUF. -/
inductive Code where
  | hop (w : BitVec 10)
  | frame (s : Bytes)
  deriving DecidableEq, Repr

/-- The names under which decoding rejects: a reserved operation word (R85), or one of the failures of
42_frame.md R123 checks (a) and (b). -/
inductive DecodeError where
  | reservedOperation (w : BitVec 10)
  | badFrame (f : Failure)
  deriving DecidableEq, Repr

/-- The wire command with a command code: HOP kind 0 (R72). -/
def decodeWireCode (code : Byte) : Option Instr :=
  match code.toNat with
  | 0x30 => some .reset
  | 0x31 => some .getStatus
  | 0x32 => some .setSecurity
  | 0x33 => some .poll
  | 0x34 => some .enable
  | 0x35 => some .stack
  | 0x36 => some .returnBill
  | 0x37 => some .ident
  | 0x38 => some .hold
  | 0x3A => some .barcode
  | 0x41 => some .getBillTable
  | 0x51 => some .getCrc32
  | 0x00 => some .ack
  | 0xFF => some .nack
  | _ => none

/-- HOP (R71): kind in bits 9:8, code in bits 7:0; kinds 1 and 2 take code 0x00 only, kind 3 is
reserved. -/
def decodeHop (w : BitVec 10) : Except DecodeError Instr :=
  let kind := w.extractLsb' 8 2
  let code := w.extractLsb' 0 8
  let found : Option Instr :=
    if kind = 0b00#2 then decodeWireCode code
    else if kind = 0b01#2 ∧ code = 0x00#8 then some .openLink
    else if kind = 0b10#2 ∧ code = 0x00#8 then some .closeLink
    else none
  match found with
  | some i => .ok i
  | none => .error (.reservedOperation w)

/-- PARSERSP's checks and classification (42_frame.md R123): (a) start code and address, (b) checksum,
then the class by total length and echo byte. A sequence shorter than 2 bytes, and one of 2 to 5 bytes
that passes (a) and (b), is a FrameFormatError (D10). -/
def decodeFrame (s : Bytes) : Except Failure Instr :=
  let n := s.length
  let body := s.take (n - 2)
  if n < 2 then .error .frameFormatError
  else if s.take 2 ≠ [0x02#8, 0x03#8] then .error .frameFormatError
  else if s.drop (n - 2) ≠ crcTrailer body then .error .checksumMismatch
  else if n < 6 then .error .frameFormatError
  else
    let len := s.getD 2 0x00#8
    let echo := s.getD 3 0x00#8
    if n = 6 then
      if echo = 0x00#8 then .ok (.rspAck len)
      else if echo = 0xFF#8 then .ok (.rspNack len)
      else if echo = 0x30#8 then .ok (.rspIllegal len)
      else .ok (.rspData len echo (body.drop 4))
    else .ok (.rspData len echo (body.drop 4))

/-- The outcome of PARSERSP (42_frame.md R123). -/
inductive RspOutcome where
  | ack
  | data (p : Bytes)
  | fail (f : Failure)
  deriving DecidableEq, Repr

/-- PARSERSP (R123): the control replies NACK and illegal command are failures, the bare ACK and every
substantive response a success. -/
def parseRsp (s : Bytes) : RspOutcome :=
  match decodeFrame s with
  | .error f => .fail f
  | .ok (.rspAck _) => .ack
  | .ok (.rspNack _) => .fail .deviceNack
  | .ok (.rspIllegal _) => .fail .illegalCommand
  | .ok (.rspData _ _ p) => .data p
  | .ok _ => .fail .frameFormatError

/-- Decoding, total on every operation word and every byte sequence. -/
def decode (c : Code) : Except DecodeError Instr :=
  match c with
  | .hop w => decodeHop w
  | .frame s =>
    match decodeFrame s with
    | .ok i => .ok i
    | .error f => .error (.badFrame f)

/-! ## Encoding -/

/-- The command code of a wire command (R72); none for OPEN, CLOSE and the response classes. -/
def wireCode (i : Instr) : Option Byte :=
  match i with
  | .reset => some 0x30#8
  | .getStatus => some 0x31#8
  | .setSecurity => some 0x32#8
  | .poll => some 0x33#8
  | .enable => some 0x34#8
  | .stack => some 0x35#8
  | .returnBill => some 0x36#8
  | .ident => some 0x37#8
  | .hold => some 0x38#8
  | .barcode => some 0x3A#8
  | .getBillTable => some 0x41#8
  | .getCrc32 => some 0x51#8
  | .ack => some 0x00#8
  | .nack => some 0xFF#8
  | .openLink => none
  | .closeLink => none
  | .rspAck _ => none
  | .rspNack _ => none
  | .rspIllegal _ => none
  | .rspData _ _ _ => none

/-- The words of an instruction: HOP of a host operation (the "HOP (binary)" column of R72), the frame
of a response class (R77). -/
def encode (i : Instr) : Code :=
  match i with
  | .reset => .hop 0b0000110000#10
  | .getStatus => .hop 0b0000110001#10
  | .setSecurity => .hop 0b0000110010#10
  | .poll => .hop 0b0000110011#10
  | .enable => .hop 0b0000110100#10
  | .stack => .hop 0b0000110101#10
  | .returnBill => .hop 0b0000110110#10
  | .ident => .hop 0b0000110111#10
  | .hold => .hop 0b0000111000#10
  | .barcode => .hop 0b0000111010#10
  | .getBillTable => .hop 0b0001000001#10
  | .getCrc32 => .hop 0b0001010001#10
  | .ack => .hop 0b0000000000#10
  | .nack => .hop 0b0011111111#10
  | .openLink => .hop 0b0100000000#10
  | .closeLink => .hop 0b1000000000#10
  | .rspAck len => .frame (sealFrame len 0x00#8 [])
  | .rspNack len => .frame (sealFrame len 0xFF#8 [])
  | .rspIllegal len => .frame (sealFrame len 0x30#8 [])
  | .rspData len echo p => .frame (sealFrame len echo p)

/-! ## The header words of the opcode table -/

/-- One row of the table for a request: `H and mask = match` (30_encoding.md R91). -/
structure HeaderRow where
  mask : BitVec 32
  value : BitVec 32
  instr : Instr
  deriving DecidableEq, Repr

/-- The fourteen request rows of spec/opcode_table.json (R91). REQRAW masks out byte 2. -/
def headerRows : List HeaderRow :=
  [⟨0xFFFF00FF#32, 0x02030030#32, .reset⟩,
   ⟨0xFFFFFFFF#32, 0x02030631#32, .getStatus⟩,
   ⟨0xFFFFFFFF#32, 0x02030932#32, .setSecurity⟩,
   ⟨0xFFFFFFFF#32, 0x02030633#32, .poll⟩,
   ⟨0xFFFFFFFF#32, 0x02030C34#32, .enable⟩,
   ⟨0xFFFF00FF#32, 0x02030035#32, .stack⟩,
   ⟨0xFFFF00FF#32, 0x02030036#32, .returnBill⟩,
   ⟨0xFFFFFFFF#32, 0x02030637#32, .ident⟩,
   ⟨0xFFFF00FF#32, 0x02030038#32, .hold⟩,
   ⟨0xFFFF00FF#32, 0x0203003A#32, .barcode⟩,
   ⟨0xFFFFFFFF#32, 0x02030641#32, .getBillTable⟩,
   ⟨0xFFFF00FF#32, 0x02030051#32, .getCrc32⟩,
   ⟨0xFFFF00FF#32, 0x02030000#32, .ack⟩,
   ⟨0xFFFF00FF#32, 0x020300FF#32, .nack⟩]

/-- A header word against one row. -/
def HeaderRow.hits (r : HeaderRow) (h : BitVec 32) : Bool := h &&& r.mask == r.value

/-- The request whose header word is `h`, if any (R91). -/
def decodeHeader (h : BitVec 32) : Option Instr :=
  match headerRows.find? (fun r => r.hits h) with
  | some r => some r.instr
  | none => none

/-- The header word of the first four bytes of a frame: byte 0 most significant (R91). -/
def headerWord (s : Bytes) : BitVec 32 :=
  s.getD 0 0x00#8 ++ s.getD 1 0x00#8 ++ s.getD 2 0x00#8 ++ s.getD 3 0x00#8

/-- The response frame a header word stands for when no request row has it: length byte and echo byte
from the word, the payload zero bytes up to the stated length, the trailer valid (log 8). -/
def responseOfHeader (h : BitVec 32) : Bytes :=
  let len := h.extractLsb' 8 8
  sealFrame len (h.extractLsb' 0 8) (List.replicate (len.toNat - 6) 0x00#8)

/-- The instruction the decoder reads from a table word. At most 16 bits: the operation word HOP in the
low 10 bits. 32 bits: the header word of a request, and, where no request row has it, of a response; a
request and a response with the same header word differ only in their direction, and the request is
taken (log 8). -/
def decodeTableWord (nbits w : Nat) : Option Instr :=
  if nbits ≤ 16 then
    if w < 1024 then
      match decodeHop (BitVec.ofNat 10 w) with
      | .ok i => some i
      | .error _ => none
    else none
  else if nbits = 32 ∧ w < 4294967296 then
    match decodeHeader (BitVec.ofNat 32 w) with
    | some i => some i
    | none =>
      if BitVec.extractLsb' 16 16 (BitVec.ofNat 32 w) = 0x0203#16 then
        match decodeFrame (responseOfHeader (BitVec.ofNat 32 w)) with
        | .ok i => some i
        | .error _ => none
      else none
  else none

end Sys2Proof
end

