-- ==== Sys2Proof/Machine/Flags.lean ====
section
/-! DEFINITION. The completion status RES_VALID and RES_ERR, the only flags of the block (10_state.md
R15). -/

namespace Sys2Proof.Machine

/-- What an accepted operation does first (43_reader.md R141; 44_commands.md R186, R187): RES_VALID is
cleared and every result data register holds no value. RES_ERR is not written. -/
def State.beginOperation (s : State) : State :=
  { s with resValid := false, res := Results.noValue }

/-- Success (43_reader.md R152): RES_ERR ← 0, RES_VALID ← 1, PHASE ← IDLE. -/
def State.complete (s : State) : State :=
  { s with resErr := some 0#4, resValid := true, phase := .idle }

/-- The numeric coding of PHASE (10_state.md R11, D31). -/
def phaseCode (p : Phase) : BitVec 3 :=
  match p with
  | .idle => 0#3
  | .send => 1#3
  | .recv => 2#3
  | .parse => 3#3
  | .hsack => 4#3
  | .decode => 5#3

end Sys2Proof.Machine
end

