-- ==== Sys2Proof/Machine/Memory.lean ====
section
/-! DEFINITION. Reading and writing a byte-addressed buffer (20_memory.md R40 to R42, R52). An address
that is not listed holds no value (log 1). -/

namespace Sys2Proof.Machine

/-- The byte at an address, if it holds a value. -/
def memRead (m : Memory) (a : Nat) : Option Byte :=
  match m with
  | [] => none
  | (k, v) :: r => if k = a then some v else memRead r a

/-- One byte written, the addresses kept strictly rising. -/
def memWrite (m : Memory) (a : Nat) (b : Byte) : Memory :=
  match m with
  | [] => [(a, b)]
  | (k, v) :: r =>
    if a < k then (a, b) :: (k, v) :: r
    else if a = k then (a, b) :: r
    else (k, v) :: memWrite r a b

/-- `MemRead(X:a, n)` (00_scope.md section 5.2): the `n` bytes from address `a`, if all hold values. -/
def memReadBytes (m : Memory) (a : Nat) : Nat → Option Bytes
  | 0 => some []
  | n + 1 =>
    match memRead m a, memReadBytes m (a + 1) n with
    | some b, some s => some (b :: s)
    | _, _ => none

/-- `MemWrite(X:a, len(s), s)` (00_scope.md section 5.2). -/
def memWriteBytes (m : Memory) (a : Nat) : Bytes → Memory
  | [] => m
  | b :: s => memWriteBytes (memWrite m a b) (a + 1) s

/-- The canonical form: addresses strictly rising. No entry can equal what an unlisted address reads as,
since an unlisted address reads as no value. -/
def memWf : Memory → Bool
  | [] => true
  | [_] => true
  | (k, _) :: (k', v') :: r => decide (k < k') && memWf ((k', v') :: r)

/-- Every listed address is below `n`. -/
def memBelow (n : Nat) (m : Memory) : Bool := m.all (fun c => c.1 < n)

end Sys2Proof.Machine
end

