-- ==== Sys2Proof/Machine/Ops.lean ====
section
/-! DEFINITION. The shared operations: entering a failure (60_exceptions.md R214), and the transport
primitives TWrite, TRead, TOpen, TClose (20_memory.md R45 to R47). There is no operation for returning
from a failure: the step that raises also ends the operation (R216). -/

namespace Sys2Proof.Machine

open Sys2Proof

/-- `raise E` (R214): RES_ERR ← the code of E, RES_VALID ← 1, every result data register holds no value,
PHASE ← IDLE, and nothing else. -/
def State.raise (f : Failure) (s : State) : State :=
  { s with
    resErr := some (failureCode f)
    resValid := true
    res := Results.noValue
    phase := .idle }

/-- The wire as a transport call left it. -/
def State.onWire (w : Wire) (s : State) : State := { s with wire := w }

/-- What a hook of a command ends in: a value, a failure (R213), or a stop of the model. -/
inductive Hook (α : Type) where
  | value (a : α)
  | raise (f : Failure)
  | fault (r : Fault)
  | refused (r : Refusal)
  deriving DecidableEq, Repr

/-- The oracle's next answer to a write (log 2). -/
def nextWrite (w : Wire) : WriteAnswer :=
  match w.writes with
  | [] => Config.freeWriteAnswer w.calls.length
  | a :: _ => a

/-- The oracle's next answer to a read (log 2). -/
def nextRead (w : Wire) : ReadAnswer :=
  match w.reads with
  | [] => Config.freeReadAnswer w.calls.length
  | a :: _ => a

/-- The oracle's next answer to an open (log 2). -/
def nextOpen (w : Wire) : OpenAnswer :=
  match w.opens with
  | [] => Config.freeOpenAnswer w.calls.length
  | a :: _ => a

/-- `TWrite(s)` on the wire (R45): `true` is `ok`, all of `s` is in WOUT; `false` is `err`, some first
part of `s` is. -/
def Wire.twrite (s : Bytes) (w : Wire) : Bool × Wire :=
  let rest := { w with writes := w.writes.tail, calls := w.calls ++ [Call.twrite s] }
  match nextWrite w with
  | .ok => (true, { rest with wout := w.wout ++ s })
  | .err sent => (false, { rest with wout := w.wout ++ s.take sent })

/-- `TRead()` on the wire (R46): `some c` is `bytes(c)`, taken from the front of WIN, at most `chunk`
bytes; `none` is `err`. -/
def Wire.tread (chunk : Nat) (w : Wire) : Option Bytes × Wire :=
  let rest := { w with reads := w.reads.tail, calls := w.calls ++ [Call.tread] }
  match nextRead w with
  | .bytes arrived n =>
    let win := w.win ++ arrived
    let k := min n chunk
    (some (win.take k), { rest with win := win.drop k })
  | .err arrived => (none, { rest with win := w.win ++ arrived })

/-- `TOpen()` on the wire (R47). -/
def Wire.topen (w : Wire) : Bool × Wire :=
  let rest := { w with opens := w.opens.tail, calls := w.calls ++ [Call.topen] }
  match nextOpen w with
  | .ok => (true, rest)
  | .err => (false, rest)

/-- `TClose()` on the wire (R47): it returns nothing and cannot fail. -/
def Wire.tclose (w : Wire) : Wire := { w with calls := w.calls ++ [Call.tclose] }

/-- A step that only PHASE enables: in any other phase nothing happens (43_reader.md R140, R141; log
10). -/
def whenPhase (p : Phase) (k : State → Result) (s : State) : Result :=
  if s.phase = p then k s else .next s

end Sys2Proof.Machine
end

