-- ==== Sys2Proof/Machine/Operands.lean ====
section
/-! DEFINITION. The encode hooks: how a command makes its request payload from the host operand
registers (30_encoding.md R73; 44_commands.md R190, R173, R175). -/

namespace Sys2Proof.Machine

open Sys2Proof

/-- TXPAYMAX (00_scope.md R5). -/
def txPayMax : Nat := 249

/-- IDXLISTMAX (00_scope.md R5). -/
def idxListMax : Nat := 255

/-- `ENCODE_none()` (R190): format REQ0. -/
def encodeNone (_ : State) : Hook Bytes := .value []

/-- `ENCODE_raw() = OP_RAW[0..OP_RAWLEN−1]` (R190): format REQRAW. OP_RAWLEN cannot exceed 249 (R74).
OP_RAWLEN or a byte of OP_RAW that holds no value faults (70_reset_and_hazards.md R243; U9). -/
def encodeRaw (s : State) : Hook Bytes :=
  match s.opRawLen with
  | none => .fault (.noValue .opRawLen)
  | some n =>
    if n.toNat ≤ txPayMax then
      match memReadBytes s.opRaw 0 n.toNat with
      | some p => .value p
      | none => .fault (.noValue .opRaw)
    else .refused .operandTooLong

/-- A mask field (30_encoding.md R76): BSENC of an index list register; one that holds no value faults
(70_reset_and_hazards.md R243; U9). -/
def encodeMask (r : Reg) (l : Option Bytes) : Hook Bytes :=
  match l with
  | none => .fault (.noValue r)
  | some l =>
    match bsenc l with
    | .ok m => .value m
    | .error f => .raise f

/-- `ENCODE_setsecurity() = BSENC(OP_SETA)` (R173): format REQM1. -/
def encodeSetSecurity (s : State) : Hook Bytes := encodeMask .opSetA s.opSetA

/-- `ENCODE_enable() = BSENC(OP_SETA) ++ BSENC(OP_SETB)` (R175): format REQM2. The two are evaluated in
the order written, and the first that fails ends the operation (60_exceptions.md R213; log 1). -/
def encodeEnable (s : State) : Hook Bytes :=
  match encodeMask .opSetA s.opSetA with
  | .value ma =>
    match encodeMask .opSetB s.opSetB with
    | .value mb => .value (ma ++ mb)
    | .raise f => .raise f
    | .fault r => .fault r
    | .refused r => .refused r
  | .raise f => .raise f
  | .fault r => .fault r
  | .refused r => .refused r

end Sys2Proof.Machine
end

