-- ==== Sys2Proof/Machine/Responses.lean ====
section
/-! DEFINITION. The four response classes: what the PARSE step does with a valid response (43_reader.md
R147, R149; 42_frame.md R126, R127). Each is enabled only while PHASE = PARSE (R140). The frame's fields
do not matter here: the length byte is not checked (R128), the echo byte is given to nobody (R148), and
the payload stays in RXBUF for DECODE. -/

namespace Sys2Proof.Machine

open Sys2Proof

/-- A success of PARSERSP (R147): RSP_CTRL says whether it was a bare ACK, and where PHASE goes. -/
def parsedAs (ctrl : Bool) (next : Phase) (s : State) : Result :=
  .next { s with rspCtrl := some ctrl, phase := next }

/-- A control reply that is a failure (R126): the operation ends. -/
def parsedFailure (f : Failure) (s : State) : Result := .next (s.raise f)

/-- RSP.ACK: RSP_CTRL ← 1, PHASE ← DECODE; no handshake ACK (R147, R149). -/
def execRspAck (_len : Byte) (s : State) : Result :=
  whenPhase .parse (parsedAs true .decode) s

/-- RSP.NACK: the failure DeviceNack (R126). -/
def execRspNack (_len : Byte) (s : State) : Result :=
  whenPhase .parse (parsedFailure .deviceNack) s

/-- RSP.ILLEGAL: the failure IllegalCommand (R126). -/
def execRspIllegal (_len : Byte) (s : State) : Result :=
  whenPhase .parse (parsedFailure .illegalCommand) s

/-- RSP.DATA: RSP_CTRL ← 0, PHASE ← HSACK (R147). -/
def execRspData (_len _echo : Byte) (_payload : Bytes) (s : State) : Result :=
  whenPhase .parse (parsedAs false .hsack) s

end Sys2Proof.Machine
end

