-- ==== Sys2Proof/Machine/Sequencer.lean ====
section
/-! DEFINITION. ResponseReader and the transaction sequencer: the steps ACCEPT, SEND, RECV, PARSE, HSACK
and DECODE that every wire command shares (43_reader.md R140 to R152). -/

namespace Sys2Proof.Machine

open Sys2Proof

/-- The end of ACCEPT (R141): the request frame stands in TXBUF from index 0, the code is latched, PHASE
is SEND. Bytes of TXBUF past the frame keep what they held. -/
def State.latchRequest (code : Byte) (p : Bytes) (s : State) : State :=
  { s with
    tx := memWriteBytes s.tx 0 (buildReq code p)
    txLen := BitVec.ofNat 8 (6 + p.length)
    curCode := some code
    phase := .send }

/-- ACCEPT (R141): RES_VALID and the result registers are cleared in every case; the link is checked before the operands (60_exceptions.md R213). -/
def acceptStep (code : Byte) (enc : State → Hook Bytes) (s : State) : Result :=
  if s.linkOpen then
    match enc s with
    | .value p => .next (s.beginOperation.latchRequest code p)
    | .raise f => .next (s.beginOperation.raise f)
    | .fault r => .fault r
    | .refused r => .refused r
  else .next (s.beginOperation.raise .connectionStateError)

/-- A fresh accumulator (R142, R154): RXLEN ← 0, ATTEMPT ← 0, PHASE ← RECV. Indices from RXLEN up hold
no value (20_memory.md R41), so RXBUF holds nothing (log 11). -/
def State.startReceive (s : State) : State :=
  { s with rx := [], rxLen := 0, attempt := 0, phase := .recv }

/-- SEND (R142): the one request write of the transaction. TXBUF read before it is written faults
(10_state.md R27; U19). -/
def sendStep (s : State) : Result :=
  match memReadBytes s.tx 0 s.txLen.toNat with
  | none => .fault (.noValue .txbuf)
  | some f =>
    match s.wire.twrite f with
    | (true, w) => .next (s.onWire w).startReceive
    | (false, w) => .next ((s.onWire w).raise .transportError)

/-- One more attempt (R143). -/
def State.countAttempt (s : State) : State := { s with attempt := s.attempt + 1 }

/-- The append of R146: `MemWrite(RX:RXLEN, len(c), c)`, then RXLEN ← RXLEN + len(c). -/
def State.appendRx (c : Bytes) (s : State) : State :=
  { s with rx := memWriteBytes s.rx s.rxLen c, rxLen := s.rxLen + c.length }

/-- PHASE ← `p`. -/
def State.goTo (p : Phase) (s : State) : State := { s with phase := p }

/-- COMPLETE(RXBUF, RXLEN) (R144): RXBUF[2] is looked at only once 6 bytes are there; `none` if it holds
no value. -/
def rxComplete (s : State) : Option Bool :=
  if s.rxLen < 6 then some false
  else
    match memRead s.rx 2 with
    | some len => some (frameComplete s.rxLen len)
    | none => none

/-- What RECV does with the bytes of a read (R143, R146). A byte of RXBUF that holds no value faults
(10_state.md R27; 20_memory.md R41). -/
def recvChunk (c : Bytes) (s : State) : Result :=
  if s.rxLen + c.length ≤ s.cfg.rxCap then
    match rxComplete (s.appendRx c) with
    | some true => .next ((s.appendRx c).goTo .parse)
    | some false => .next (s.appendRx c)
    | none => .fault (.noValue .rxbuf)
  else .fault .noSuchAddress

/-- RECV (R143): at most one transport read; none once ATTEMPT = MAX_RETRY (R145). -/
def recvStep (s : State) : Result :=
  if s.attempt = s.cfg.maxRetry then .next (s.raise .retryExhausted)
  else
    match s.wire.tread s.cfg.readChunkMax with
    | (none, w) => .next ((s.countAttempt.onWire w).raise .transportError)
    | (some c, w) => recvChunk c (s.countAttempt.onWire w)

/-- PARSE (R147): the whole accumulator is decoded; a failed check raises, a response class has its
meaning. A byte of RXBUF that holds no value faults (10_state.md R27; 20_memory.md R41). -/
def parseStep (s : State) : Result :=
  match memReadBytes s.rx 0 s.rxLen with
  | none => .fault (.noValue .rxbuf)
  | some f =>
    match decodeFrame f with
    | .error e => .next (s.raise e)
    | .ok (.rspAck len) => execRspAck len s
    | .ok (.rspNack len) => execRspNack len s
    | .ok (.rspIllegal len) => execRspIllegal len s
    | .ok (.rspData len echo p) => execRspData len echo p s
    | .ok _ => .next (s.raise .frameFormatError)

/-- HSACK (R150): the handshake ACK, a write only; its failure is the operation's (R151). -/
def hsackStep (s : State) : Result :=
  match s.wire.twrite ackFrame with
  | (true, w) => .next ((s.onWire w).goTo .decode)
  | (false, w) => .next ((s.onWire w).raise .transportError)

/-- The payload that reaches a command's decode (R148): empty after a bare ACK, else
`RXBUF[4..RXLEN−3]`. RSP_CTRL or a byte of RXBUF that holds no value faults (10_state.md R27;
20_memory.md R41; U19). -/
def decodePayload (s : State) : Hook Bytes :=
  match s.rspCtrl with
  | none => .fault (.noValue .rspCtrl)
  | some true => .value []
  | some false =>
    match memReadBytes s.rx 4 (s.rxLen - 6) with
    | some p => .value p
    | none => .fault (.noValue .rxbuf)

/-- DECODE (R152): the command's decode hook on the payload; the end of the operation. -/
def decodeStep (dec : Config → Bytes → Results → Except Failure Results) (s : State) : Result :=
  match decodePayload s with
  | .fault r => .fault r
  | .refused r => .refused r
  | .raise f => .next (s.raise f)
  | .value p =>
    match dec s.cfg p s.res with
    | .error f => .next (s.raise f)
    | .ok r => .next (({ s with res := r } : State).complete)

/-- A wire command (44_commands.md R170): its step in the phase the block is in. Only ACCEPT and DECODE
depend on the command. -/
def wireCommand (code : Byte) (enc : State → Hook Bytes)
    (dec : Config → Bytes → Results → Except Failure Results) (s : State) : Result :=
  match s.phase with
  | .idle => acceptStep code enc s
  | .send => sendStep s
  | .recv => recvStep s
  | .parse => parseStep s
  | .hsack => hsackStep s
  | .decode => decodeStep dec s

end Sys2Proof.Machine
end

