-- ==== Sys2Proof/Machine/Commands.lean ====
section
/-! DEFINITION. The fourteen wire commands (44_commands.md R171 to R185): for each, its code, its encode
hook and its decode hook. -/

namespace Sys2Proof.Machine

/-- RESET (R171). It resets the device, not the block. -/
def execReset (s : State) : Result := wireCommand 0x30#8 encodeRaw decodeDiscard s

/-- GETSTATUS (R172). -/
def execGetStatus (s : State) : Result := wireCommand 0x31#8 encodeNone decodeGetStatus s

/-- SETSECURITY (R173). -/
def execSetSecurity (s : State) : Result := wireCommand 0x32#8 encodeSetSecurity decodeDiscard s

/-- POLL (R174). -/
def execPoll (s : State) : Result := wireCommand 0x33#8 encodeNone decodePoll s

/-- ENABLE (R175). -/
def execEnable (s : State) : Result := wireCommand 0x34#8 encodeEnable decodeDiscard s

/-- STACK (R176). -/
def execStack (s : State) : Result := wireCommand 0x35#8 encodeRaw decodeDiscard s

/-- RETURN (R177). -/
def execReturn (s : State) : Result := wireCommand 0x36#8 encodeRaw decodeDiscard s

/-- IDENT (R178). -/
def execIdent (s : State) : Result := wireCommand 0x37#8 encodeNone decodeIdent s

/-- HOLD (R179). -/
def execHold (s : State) : Result := wireCommand 0x38#8 encodeRaw decodeDiscard s

/-- BARCODE (R180). -/
def execBarcode (s : State) : Result := wireCommand 0x3A#8 encodeRaw decodeRaw s

/-- GETBILLTABLE (R181). -/
def execGetBillTable (s : State) : Result := wireCommand 0x41#8 encodeNone decodeGetBillTable s

/-- GETCRC32 (R183). -/
def execGetCrc32 (s : State) : Result := wireCommand 0x51#8 encodeRaw decodeRaw s

/-- ACK as a host operation, a full transaction (R184, D14). -/
def execAck (s : State) : Result := wireCommand 0x00#8 encodeRaw decodeDiscard s

/-- NACK as a host operation, a full transaction (R185, D14). -/
def execNack (s : State) : Result := wireCommand 0xFF#8 encodeRaw decodeDiscard s

end Sys2Proof.Machine
end

