-- ==== Sys2Proof/Machine/Link.lean ====
section
/-! DEFINITION. The link operations OPEN and CLOSE (44_commands.md R186, R187). -/

namespace Sys2Proof.Machine

/-- The link bit as OPEN and CLOSE leave it (10_state.md R12). -/
def State.setLink (b : Bool) (s : State) : State := { s with linkOpen := b }

/-- OPEN at PHASE = IDLE (R186). -/
def openStep (s : State) : Result :=
  if s.linkOpen then .next (s.beginOperation.raise .connectionStateError)
  else
    match s.wire.topen with
    | (true, w) => .next ((s.beginOperation.onWire w).setLink true).complete
    | (false, w) => .next ((s.beginOperation.onWire w).raise .transportError)

/-- CLOSE at PHASE = IDLE (R187). -/
def closeStep (s : State) : Result :=
  if s.linkOpen then .next ((s.beginOperation.onWire s.wire.tclose).setLink false).complete
  else .next (s.beginOperation.raise .connectionStateError)

/-- OPEN (R186): a single step, enabled when PHASE = IDLE. -/
def execOpenLink (s : State) : Result := whenPhase .idle openStep s

/-- CLOSE (R187): a single step, enabled when PHASE = IDLE; it cannot cancel a wire command. -/
def execCloseLink (s : State) : Result := whenPhase .idle closeStep s

end Sys2Proof.Machine
end

