-- ==== Sys2Proof/Machine/Dispatch.lean ====
section
/-! DEFINITION. One arm per instruction: the meaning it has. -/

namespace Sys2Proof.Machine

def exec (i : Instr) (s : State) : Host.Outcome State Fault Refusal :=
  match i with
  | .reset => Sys2Proof.Machine.execReset s
  | .getStatus => Sys2Proof.Machine.execGetStatus s
  | .setSecurity => Sys2Proof.Machine.execSetSecurity s
  | .poll => Sys2Proof.Machine.execPoll s
  | .enable => Sys2Proof.Machine.execEnable s
  | .stack => Sys2Proof.Machine.execStack s
  | .returnBill => Sys2Proof.Machine.execReturn s
  | .ident => Sys2Proof.Machine.execIdent s
  | .hold => Sys2Proof.Machine.execHold s
  | .barcode => Sys2Proof.Machine.execBarcode s
  | .getBillTable => Sys2Proof.Machine.execGetBillTable s
  | .getCrc32 => Sys2Proof.Machine.execGetCrc32 s
  | .ack => Sys2Proof.Machine.execAck s
  | .nack => Sys2Proof.Machine.execNack s
  | .openLink => Sys2Proof.Machine.execOpenLink s
  | .closeLink => Sys2Proof.Machine.execCloseLink s
  | .rspAck len => Sys2Proof.Machine.execRspAck len s
  | .rspNack len => Sys2Proof.Machine.execRspNack len s
  | .rspIllegal len => Sys2Proof.Machine.execRspIllegal len s
  | .rspData len echo payload => Sys2Proof.Machine.execRspData len echo payload s

end Sys2Proof.Machine
end

