-- ==== Sys2Proof/Machine/Fetch.lean ====
section
/-! DEFINITION. Where an instruction comes from: the register HOP when an operation is accepted
(43_reader.md R141), the latched code in DECODE (R152), the accumulated frame in PARSE (R147). -/

namespace Sys2Proof.Machine

open Sys2Proof

/-- The host operation that HOP names (30_encoding.md R71, R72); a reserved word is refused (R85).
A HOP that holds no value faults (70_reset_and_hazards.md R243; U9). -/
def fetchOperation (s : State) : Hook Instr :=
  match s.hop with
  | none => .fault (.noValue .hop)
  | some w =>
    match decodeHop w with
    | .ok i => .value i
    | .error _ => .refused (.reservedOperation w)

/-- The wire command in progress, from CUR_CODE (10_state.md R14); read before it is written
it faults (R27; U19). -/
def fetchLatched (s : State) : Hook Instr :=
  match s.curCode with
  | none => .fault (.noValue .curCode)
  | some c =>
    match decodeWireCode c with
    | some i => .value i
    | none => .refused (.reservedOperation (c.setWidth 10))

/-- The response class of the accumulated frame (43_reader.md R147); a failed check is a failure. A byte
of RXBUF that holds no value is never read (20_memory.md R41): a fault (R27; U19). -/
def fetchResponse (s : State) : Hook Instr :=
  match memReadBytes s.rx 0 s.rxLen with
  | none => .fault (.noValue .rxbuf)
  | some f =>
    match decodeFrame f with
    | .ok i => .value i
    | .error e => .raise e

/-- The presented operation is taken. -/
def State.takeRequest (s : State) : State := { s with request := false }

/-- `s` with an operation word presented, its operand registers all zero: `rawLen` zero bytes in OP_RAW,
empty index lists (log 9). -/
def placeOperation (w : BitVec 10) (rawLen : Nat) (s : State) : State :=
  { s with
    phase := .idle
    schedule := []
    request := true
    hop := some w
    opRaw := memWriteBytes [] 0 (List.replicate rawLen 0x00#8)
    opRawLen := some (BitVec.ofNat 8 rawLen)
    opSetA := some []
    opSetB := some [] }

/-- `s` with a response accumulated and complete, at the point where PARSE reads it (log 8). -/
def placeResponse (f : Bytes) (s : State) : State :=
  { s with
    phase := .parse
    schedule := []
    rx := memWriteBytes [] 0 f
    rxLen := f.length }

/-- The operation word of a host operation, if it has one. -/
def hopOf (i : Instr) : Option (BitVec 10) :=
  match encode i with
  | .hop w => some w
  | .frame _ => none

/-- `s` with the instruction of a table word placed where the next step fetches it (`decodeTableWord`;
logs 8 and 9). A raw payload has the length the header's length byte gives, LEN − 6, at most 249. -/
def placeTableWord (nbits w : Nat) (s : State) : State :=
  if nbits ≤ 16 then placeOperation (BitVec.ofNat 10 w) 0 s
  else
    let h := BitVec.ofNat 32 w
    match decodeHeader h with
    | some i =>
      match hopOf i with
      | some hop => placeOperation hop ((h.extractLsb' 8 8).toNat - 6) s
      | none => s
    | none => placeResponse (responseOfHeader h) s

end Sys2Proof.Machine
end

