-- ==== Sys2Proof/Machine/HostPort.lean ====
section
/-! DEFINITION. What the outside does to the block between its steps: the host's writes, reads and
presentations (10_state.md R12, R16, R17; 70_reset_and_hazards.md R252), the device's bytes (20_memory.md
R44) and reset (70_reset_and_hazards.md R240 to R242). -/

namespace Sys2Proof.Machine

open Sys2Proof

/-- A host write of an operand register (R16): only while PHASE = IDLE; refused while busy (R252,
D30). -/
def hostWrite (k : State → Result) (s : State) : Result :=
  if s.phase = .idle then k s else .refused .operandWriteWhileBusy

/-- A host write of OP_RAW (R16). R16 says that the host writes the buffer and not how; that a write
starts at index 0 and that the bytes past those it brings keep what they held is a DESIGN CHOICE
(log 17). It leaves OP_RAWLEN alone, since no operand register has a side effect on write (R16). -/
def writeOpRaw (p : Bytes) (s : State) : Result :=
  if p.length ≤ txPayMax then .next { s with opRaw := memWriteBytes s.opRaw 0 p }
  else .refused .operandTooLong

/-- OP_RAWLEN ← n, 0 to 249 (R16). -/
def writeOpRawLen (n : Byte) (s : State) : Result :=
  if n.toNat ≤ txPayMax then .next { s with opRawLen := some n } else .refused .operandTooLong

/-- OP_SETA ← l, at most 255 entries (R16). -/
def writeOpSetA (l : Bytes) (s : State) : Result :=
  if l.length ≤ idxListMax then .next { s with opSetA := some l } else .refused .operandTooLong

/-- OP_SETB ← l, at most 255 entries (R16). -/
def writeOpSetB (l : Bytes) (s : State) : Result :=
  if l.length ≤ idxListMax then .next { s with opSetB := some l } else .refused .operandTooLong

/-- HOP ← w (R16). -/
def writeOpHop (w : BitVec 10) (s : State) : Result := .next { s with hop := some w }

/-- The host presents the operation in HOP (43_reader.md R141). While another is in progress it "waits
or is lost as the host interface has it" (log 5). -/
def present (s : State) : State :=
  if s.phase = .idle then { s with request := true }
  else { s with request := s.request || Config.busyRequestWaits }

/-- The value of a register that only a completed operation gives (R15, R17): a fault while RES_VALID =
0, and a fault where it holds no value (R17: "A model must treat a host read of a register that holds no
value as a fault"; U8; for RES_ERR R27). -/
def resultValue (r : HostReg) (name : Reg) (v : Option HostValue) (s : State) : Hook HostValue :=
  if s.resValid then
    match v with
    | some v => .value v
    | none => .fault (.noValue name)
  else .fault (.resultNotValid r)

/-- A host read (R12, R15, R17, R252). Busy is PHASE ≠ IDLE (R11). -/
def hostValue (r : HostReg) (s : State) : Hook HostValue :=
  match r with
  | .busy => .value (.bit (s.phase != .idle))
  | .linkOpen => .value (.bit s.linkOpen)
  | .resValid => .value (.bit s.resValid)
  | .resErr => resultValue r .resErr (s.resErr.map .code) s
  | .resRaw => resultValue r .resRaw (s.res.raw.map .bytes) s
  | .resRawLen => resultValue r .resRawLen (s.res.rawLen.map .count) s
  | .resStatus => resultValue r .resStatus (s.res.status.map .byte) s
  | .resParam => resultValue r .resParam (s.res.param.map .byte) s
  | .resSetA => resultValue r .resSetA (s.res.setA.map .mask) s
  | .resSetB => resultValue r .resSetB (s.res.setB.map .mask) s
  | .resBill i => resultValue r .resBill ((s.res.bill.bind (fun t => t[i.val]?)).map .entry) s
  | .resPart => resultValue r .resPart (s.res.part.map .bytes) s
  | .resSerial => resultValue r .resSerial (s.res.serial.map .bytes) s
  | .resAsset => resultValue r .resAsset (s.res.asset.map .bytes) s

/-- A host read leaves what it returns on the host bus (log 15) and changes nothing else: no read has a
side effect (20_memory.md R52). -/
def hostRead (r : HostReg) (s : State) : Result :=
  match hostValue r s with
  | .value v => .next { s with hostBus := some v }
  | .raise _ => .next s
  | .fault f => .fault f
  | .refused f => .refused f

/-- The device puts bytes at the end of WIN (20_memory.md R43, R44). -/
def deviceSends (p : Bytes) (s : State) : State :=
  s.onWire { s.wire with win := s.wire.win ++ p }

/-- One input lands (log 6). -/
def land (x : Input) (s : State) : Result :=
  match x with
  | .writeHop w => hostWrite (writeOpHop w) s
  | .writeRaw p => hostWrite (writeOpRaw p) s
  | .writeRawLen n => hostWrite (writeOpRawLen n) s
  | .writeSetA l => hostWrite (writeOpSetA l) s
  | .writeSetB l => hostWrite (writeOpSetB l) s
  | .present => .next (present s)
  | .read r => hostRead r s
  | .deviceSends p => .next (deviceSends p s)
  | .reset => .next s.resetBlock

end Sys2Proof.Machine
end

