-- ==== Sys2Proof/Machine/Step.lean ====
section
/-! DEFINITION. One step of the machine: an input lands, or the block takes the step PHASE says
(43_reader.md R140; 10_state.md R11). -/

namespace Sys2Proof.Machine

open Sys2Proof

/-- The block's turn. At IDLE a presented operation is fetched and run, and with none presented the
block waits (R11, 60_exceptions.md R225); SEND, RECV and HSACK are the shared steps; PARSE runs the
response class it decodes; DECODE runs the command in CUR_CODE. -/
def blockStep (s : State) : Host.Outcome State Fault Refusal :=
  match s.phase with
  | .idle =>
    if s.request then
      match fetchOperation s with
      | .value i => exec i s.takeRequest
      | .raise f => .next (s.raise f)
      | .fault r => .fault r
      | .refused r => .refused r
    else .next s
  | .send => sendStep s
  | .recv => recvStep s
  | .parse =>
    match fetchResponse s with
    | .value i => exec i s
    | .raise f => .next (s.raise f)
    | .fault r => .fault r
    | .refused r => .refused r
  | .hsack => hsackStep s
  | .decode =>
    match fetchLatched s with
    | .value i => exec i s
    | .raise f => .next (s.raise f)
    | .fault r => .fault r
    | .refused r => .refused r

/-- One step: the next turn of the schedule, and the block's turn when the schedule is empty (log 6). -/
def step (s : State) : Host.Outcome State Fault Refusal :=
  match s.schedule with
  | [] => blockStep s
  | .block :: rest => blockStep { s with schedule := rest }
  | .input x :: rest => land x { s with schedule := rest }

/-- `s` with an instruction of the opcode table placed where `step` fetches its next one: an operation
word in HOP, presented, or a response accumulated in RXBUF (logs 8 and 9). -/
def State.withFetchWord (s : State) (nbits w : Nat) : State := placeTableWord nbits w s

end Sys2Proof.Machine
end

