-- ==== Sys2Proof/Machine/Transaction.lean ====
section
/-! DEFINITION. The transaction as one function, XACT (43_reader.md R153), and the two hooks of each wire
command as functions of the command (44_commands.md R170). The machine runs the steps of R140; that the
steps compute XACT is a statement. -/

namespace Sys2Proof.Machine

open Sys2Proof

/-- The encode hook of a wire command (30_encoding.md R72, column "request format"). -/
def encodeHook (i : Instr) : State → Hook Bytes :=
  match i with
  | .getStatus | .poll | .ident | .getBillTable => encodeNone
  | .setSecurity => encodeSetSecurity
  | .enable => encodeEnable
  | _ => encodeRaw

/-- The decode hook of a wire command (R72, column "response decode"). -/
def decodeHook (i : Instr) : Config → Bytes → Results → Except Failure Results :=
  match i with
  | .getStatus => decodeGetStatus
  | .poll => decodePoll
  | .ident => decodeIdent
  | .getBillTable => decodeGetBillTable
  | .barcode | .getCrc32 => decodeRaw
  | _ => decodeDiscard

/-- `len(buf) ≥ 6 and (buf[2] = 0 or buf[2] = len(buf))`, the loop's exit (R153). -/
def bufComplete (buf : Bytes) : Bool :=
  decide (6 ≤ buf.length) &&
    (decide (buf.getD 2 0x00#8 = 0x00#8) || decide ((buf.getD 2 0x00#8).toNat = buf.length))

/-- The loop of R153 with `n` reads left. -/
def xactRead (c : Config) : Nat → Bytes → Wire → Except Failure Bytes × Wire
  | 0, _, w => (.error .retryExhausted, w)
  | n + 1, buf, w =>
    match w.tread c.readChunkMax with
    | (none, w) => (.error .transportError, w)
    | (some chunk, w) =>
      if bufComplete (buf ++ chunk) then (.ok (buf ++ chunk), w)
      else xactRead c n (buf ++ chunk) w

/-- `XACT(f, D)` (R153). -/
def xact (c : Config) (f : Bytes) (dec : Bytes → Except Failure Results) (w : Wire) :
    Except Failure Results × Wire :=
  match w.twrite f with
  | (false, w) => (.error .transportError, w)
  | (true, w) =>
    match xactRead c c.maxRetry [] w with
    | (.error e, w) => (.error e, w)
    | (.ok buf, w) =>
      match parseRsp buf with
      | .fail e => (.error e, w)
      | .ack => (dec [], w)
      | .data p =>
        match w.twrite ackFrame with
        | (false, w) => (.error .transportError, w)
        | (true, w) => (dec p, w)

end Sys2Proof.Machine
end

