-- ==== Sys2Proof/Safety.lean ====
section
/-! DEFINITION. What counts as a sound state: the invariant every step keeps, and the groups of commands
the statements speak of. -/

namespace Sys2Proof.Machine

open Sys2Proof

/-- `k` steps of the machine, up to the first fault or refusal. -/
def runSteps : Nat → State → Result
  | 0, s => .next s
  | k + 1, s =>
    match step s with
    | .next t => runSteps k t
    | .fault r => .fault r
    | .refused r => .refused r

/-- Reading `r` on the host's turn gives `v`: the value on the host bus and nothing else changed; or a
fault for want of a value (10_state.md R17). -/
def HostReads (s : State) (r : HostReg) (v : Option HostValue) : Prop :=
  ∀ rest : List Turn, s.schedule = .input (.read r) :: rest →
    match v with
    | some v => step s = .next { s with schedule := rest, hostBus := some v }
    | none => ∃ name, step s = .fault (.noValue name)

/-- Landing the input `x` on its turn gives `t` (with the turn taken). -/
def Lands (s : State) (x : Input) (t : Result) : Prop :=
  ∀ rest : List Turn, s.schedule = .input x :: rest →
    step s = match t with
      | .next u => .next { u with schedule := rest }
      | .fault r => .fault r
      | .refused r => .refused r

/-- The eight commands of format REQRAW (30_encoding.md R73). -/
def rawCommands : List Instr :=
  [.reset, .stack, .returnBill, .hold, .barcode, .getCrc32, .ack, .nack]

/-- The four commands of format REQ0 (R73). -/
def plainCommands : List Instr := [.getStatus, .poll, .ident, .getBillTable]

/-- The two commands with index operands (R73, REQM1 and REQM2). -/
def maskCommands : List Instr := [.setSecurity, .enable]

/-- The fourteen wire commands (R72). -/
def wireCommands : List Instr := rawCommands ++ plainCommands ++ maskCommands

/-- The eight commands whose response is discarded after success (R72). -/
def discardCommands : List Instr :=
  [.reset, .setSecurity, .enable, .stack, .returnBill, .hold, .ack, .nack]

/-- The payload lengths a request format admits (R73, R74). -/
def formatAdmits (i : Instr) (n : Nat) : Bool :=
  if i ∈ rawCommands then n ≤ txPayMax
  else if i ∈ plainCommands then n = 0
  else if i = .setSecurity then n = 3
  else if i = .enable then n = 6
  else false

/-- The payload DECODE hands to the command's hook (43_reader.md R148): empty after a bare ACK, else the
bytes `RXBUF[4..RXLEN−3]`. -/
def PayloadIs (s : State) (p : Bytes) : Prop :=
  (s.rspCtrl = some true ∧ p = []) ∨
    (s.rspCtrl = some false ∧ memReadBytes s.rx 4 (s.rxLen - 6) = some p)

/-- The lengths of the result registers (10_state.md R18, R21, R22). -/
structure Results.Sized (cap : Nat) (r : Results) : Prop where
  raw : ∀ p, r.raw = some p → p.length + 6 ≤ max cap 6 ∧ r.rawLen = some p.length
  rawLen : r.raw = none → r.rawLen = none
  bill : ∀ t, r.bill = some t → t.length = 24
  part : ∀ p, r.part = some p → p.length = 15
  serial : ∀ p, r.serial = some p → p.length = 11
  asset : ∀ p, r.asset = some p → p.length = 6

/-- What every step keeps. -/
structure StateInv (s : State) : Prop where
  /-- The buffers are in canonical form and inside their address spaces (20_memory.md R40). -/
  txForm : memWf s.tx = true
  txSpace : memBelow 255 s.tx = true
  rxForm : memWf s.rx = true
  opRawForm : memWf s.opRaw = true
  opRawSpace : memBelow 249 s.opRaw = true
  /-- Exactly the indices below RXLEN of RXBUF hold values (20_memory.md R41). -/
  rxHeld : ∀ a, (memRead s.rx a).isSome = true ↔ a < s.rxLen
  /-- ATTEMPT never exceeds MAX_RETRY (10_state.md R13), and RXLEN is at most READ_CHUNK_MAX for each
  attempt, so at most RXCAP (43_reader.md R146). -/
  attempts : s.attempt ≤ s.cfg.maxRetry
  rxBound : s.rxLen ≤ s.attempt * s.cfg.readChunkMax
  /-- What the operand registers can hold (10_state.md R16). -/
  opRawLenMax : ∀ n, s.opRawLen = some n → n.toNat ≤ 249
  opSetAMax : ∀ l, s.opSetA = some l → l.length ≤ 255
  opSetBMax : ∀ l, s.opSetB = some l → l.length ≤ 255
  /-- RES_ERR holds 0 to 8 (10_state.md R15), and holds a value once an operation has completed. -/
  errRange : ∀ c, s.resErr = some c → c.toNat ≤ 8
  errWritten : s.resValid = true → s.resErr.isSome = true
  /-- Result data registers hold values only after a successful operation (10_state.md R17). -/
  resultsEmpty : ¬ (s.resValid = true ∧ s.resErr = some 0#4) → s.res = Results.noValue
  resultsSized : s.res.Sized s.cfg.rxCap
  /-- While an operation is in progress the link is open, RES_VALID is 0, CUR_CODE is a wire command's
  code and TXBUF holds its request, a frame of BUILDREQ (43_reader.md R141; 42_frame.md R120). -/
  busy : s.phase ≠ .idle → s.linkOpen = true ∧ s.resValid = false ∧
    ∃ i code p, wireCode i = some code ∧ s.curCode = some code ∧ p.length ≤ 249 ∧
      s.txLen.toNat = 6 + p.length ∧ memReadBytes s.tx 0 (6 + p.length) = some (buildReq code p)
  /-- A frame handed to PARSE is complete (43_reader.md R144), and it stays in RXBUF. -/
  completed : s.phase = .parse ∨ s.phase = .hsack ∨ s.phase = .decode → rxComplete s = some true
  /-- PARSE has written RSP_CTRL before DECODE reads it (10_state.md R14); HSACK follows a substantive
  response only (43_reader.md R149). -/
  classified : (s.phase = .hsack → s.rspCtrl = some false) ∧
    (s.phase = .decode → s.rspCtrl.isSome = true)

end Sys2Proof.Machine
end

