-- ==== Sys2Proof/Certificates/Slice0/Obligations.lean ====
section
/-! DEFINITION. The statements about the model, for the provers. -/

open Sys2Proof Sys2Proof.Machine

/-! ## Encodings -/

/-- The words written out from the table of 30_encoding.md R72, and three response frames of 42_frame.md
section 3, decode to what they stand for. -/
def Obligations.WrittenOutWordsDecode : Prop :=
  decode (.hop 0b0000110000#10) = .ok .reset ∧
  decode (.hop 0b0000110011#10) = .ok .poll ∧
  decode (.hop 0b0001000001#10) = .ok .getBillTable ∧
  decode (.hop 0b0011111111#10) = .ok .nack ∧
  decode (.hop 0b0100000000#10) = .ok .openLink ∧
  decode (.hop 0b1000000000#10) = .ok .closeLink ∧
  decode (.frame [0x02#8, 0x03#8, 0x06#8, 0x00#8, 0xC2#8, 0x82#8]) = .ok (.rspAck 0x06#8) ∧
  decode (.frame [0x02#8, 0x03#8, 0x06#8, 0xFF#8, 0xBA#8, 0x8D#8]) = .ok (.rspNack 0x06#8) ∧
  decode (.frame [0x02#8, 0x03#8, 0x07#8, 0x33#8, 0x14#8, 0x2F#8, 0x75#8]) =
    .ok (.rspData 0x07#8 0x33#8 [0x14#8])

/-- Decoding an encoded well-formed instruction gives it back, for every instruction and every value of
its fields. -/
def Obligations.DecodeOfEncode : Prop :=
  ∀ i : Instr, i.WellFormed → decode (encode i) = .ok i

/-- A word has at most one meaning, and it is that instruction's own word: whatever decodes is the
encoding of what it decodes to, and that is well formed. -/
def Obligations.EncodeOfDecode : Prop :=
  ∀ (c : Code) (i : Instr), decode c = .ok i → encode i = c ∧ i.WellFormed

/-- The header of a built request matches the row of its command in the opcode table and no other
(30_encoding.md R91, R72, R73). -/
def Obligations.RequestHeaderMatchesItsRowOnly : Prop :=
  ∀ (i : Instr) (code : Byte) (p : Bytes), wireCode i = some code → formatAdmits i p.length = true →
    decodeHeader (headerWord (buildReq code p)) = some i ∧
    ∀ r ∈ headerRows, r.hits (headerWord (buildReq code p)) = true → r.instr = i

/-- A presented operation word that is no operation's word is refused: no step, no result (30_encoding.md
R85). -/
def Obligations.ReservedWordIsRefused : Prop :=
  ∀ (s : State) (w : BitVec 10), s.schedule = [] → s.phase = .idle → s.request = true →
    s.hop = some w → (∀ i : Instr, encode i ≠ .hop w) → step s = .refused (.reservedOperation w)

/-! ## The pure functions -/

/-- Residue law (40_checksum.md R104): a sequence with its checksum bytes after it has CRC16 0, and no
other two bytes after it do, so the residue test and the comparison with the trailer accept the same
frames. -/
def Obligations.ChecksumResidue : Prop :=
  ∀ s : Bytes,
    crc16 (s ++ [(crc16 s).extractLsb' 0 8, (crc16 s).extractLsb' 8 8]) = 0x0000#16 ∧
    ∀ a b : Byte, crc16 (s ++ [a, b]) = 0x0000#16 →
      a = (crc16 s).extractLsb' 0 8 ∧ b = (crc16 s).extractLsb' 8 8

/-- Linearity (40_checksum.md R106). -/
def Obligations.ChecksumLinear : Prop :=
  ∀ a b : Bytes, a.length = b.length →
    crc16 (List.zipWith (fun x y => x ^^^ y) a b) = crc16 a ^^^ crc16 b

/-- The bit-serial form gives the same value (40_checksum.md R105). -/
def Obligations.ChecksumBitSerial : Prop := ∀ s : Bytes, crc16Serial s = crc16 s

/-- BSENC (41_bitset.md R110, R111): it fails with InvalidIndex exactly when some entry is above 23;
otherwise it gives three bytes in which index t is bit t mod 8 of byte 2 − t div 8, whatever the order
and the repeats. -/
def Obligations.BitsetEncodePlacesEachIndex : Prop :=
  ∀ l : Bytes,
    ((∃ t ∈ l, 23 < t.toNat) → bsenc l = .error .invalidIndex) ∧
    ((∀ t ∈ l, t.toNat ≤ 23) → ∃ m, bsenc l = .ok m ∧ m.length = 3 ∧
      ∀ t, t < 24 → (((m.getD (2 - t / 8) 0x00#8).getLsbD (t % 8) = true) ↔
        ∃ x ∈ l, x.toNat = t))

/-- Inverse laws (41_bitset.md R114): decoding an encoded set gives the set back, and encoding a decoded
mask gives the mask back. -/
def Obligations.BitsetInverse : Prop :=
  (∀ (l : Bytes) (m0 m1 m2 : Byte), bsenc l = .ok [m0, m1, m2] →
    ∀ t, t < 24 → (((bsdec m0 m1 m2).getLsbD t = true) ↔ ∃ x ∈ l, x.toNat = t)) ∧
  ∀ m0 m1 m2 : Byte, bsenc (bsIndices (bsdec m0 m1 m2)) = .ok [m0, m1, m2]

/-- EXPDEC (44_commands.md R182): above 0x80 the exponent is −(b − 0x80), else b; 0x80 gives +128. -/
def Obligations.ExponentByteIsBiased : Prop :=
  ∀ b : Byte, (expDec b).toInt =
    if 0x80 < b.toNat then -((b.toNat : Int) - 128) else (b.toNat : Int)

/-- Length law of a built request (42_frame.md R121): its length is its length byte, 6 to 255, its CRC16
is 0, and it passes checks (a) and (b) of PARSERSP. -/
def Obligations.BuiltRequestLengthLaw : Prop :=
  ∀ (code : Byte) (p : Bytes), p.length ≤ 249 →
    (buildReq code p).length = 6 + p.length ∧
    ((buildReq code p).getD 2 0x00#8).toNat = 6 + p.length ∧
    crc16 (buildReq code p) = 0x0000#16 ∧
    parseRsp (buildReq code p) ≠ .fail .frameFormatError ∧
    parseRsp (buildReq code p) ≠ .fail .checksumMismatch

/-- PARSERSP's first two checks in their order (42_frame.md R124, R125): wrong start code or address is
FrameFormatError whatever else the bytes hold; a right start and a wrong trailer is ChecksumMismatch. -/
def Obligations.ParserChecksInOrder : Prop :=
  ∀ s : Bytes,
    (s.take 2 ≠ [0x02#8, 0x03#8] → parseRsp s = .fail .frameFormatError) ∧
    (s.take 2 = [0x02#8, 0x03#8] →
      s.drop (s.length - 2) ≠ crcTrailer (s.take (s.length - 2)) →
      parseRsp s = .fail .checksumMismatch)

/-- What PARSERSP accepts, and as what (42_frame.md R126, R127): exactly the sealed frames; a 6-byte
frame by its echo byte, any other frame as data; the length byte and, past 6 bytes, the echo byte do not
matter (R128). -/
def Obligations.ParserAcceptsExactlySealedFrames : Prop :=
  ∀ s : Bytes,
    (parseRsp s = .ack ↔ ∃ len, s = sealFrame len 0x00#8 []) ∧
    (parseRsp s = .fail .deviceNack ↔ ∃ len, s = sealFrame len 0xFF#8 []) ∧
    (parseRsp s = .fail .illegalCommand ↔ ∃ len, s = sealFrame len 0x30#8 []) ∧
    ∀ p, parseRsp s = .data p ↔
      ∃ len echo, s = sealFrame len echo p ∧
        (p = [] → echo ≠ 0x00#8 ∧ echo ≠ 0xFF#8 ∧ echo ≠ 0x30#8)

/-! ## ACCEPT -/

/-- ACCEPT of the eight raw commands on an open link (43_reader.md R141; 44_commands.md R190): the
request BUILDREQ(code, OP_RAW[0..OP_RAWLEN−1]) stands in TXBUF, the code is latched, PHASE is SEND,
RES_VALID is 0 and no result register holds a value. -/
def Obligations.RawCommandsAccept : Prop :=
  ∀ (i : Instr) (code n : Byte) (p : Bytes) (s : State), i ∈ rawCommands → wireCode i = some code →
    s.phase = .idle → s.linkOpen = true → s.opRawLen = some n → n.toNat ≤ 249 →
    memReadBytes s.opRaw 0 n.toNat = some p →
    exec i s = .next { s with
      resValid := false
      res := Results.noValue
      tx := memWriteBytes s.tx 0 (buildReq code p)
      txLen := BitVec.ofNat 8 (6 + n.toNat)
      curCode := some code
      phase := .send }

/-- ACCEPT of the four commands without operands on an open link (R141, 30_encoding.md R73). -/
def Obligations.PlainCommandsAccept : Prop :=
  ∀ (i : Instr) (code : Byte) (s : State), i ∈ plainCommands → wireCode i = some code →
    s.phase = .idle → s.linkOpen = true →
    exec i s = .next { s with
      resValid := false
      res := Results.noValue
      tx := memWriteBytes s.tx 0 (buildReq code [])
      txLen := 0x06#8
      curCode := some code
      phase := .send }

/-- ACCEPT of SETSECURITY and ENABLE on an open link with every index at most 23 (R141; 44_commands.md
R173, R175): the masks are BSENC of OP_SETA, and for ENABLE then of OP_SETB. -/
def Obligations.MaskCommandsAccept : Prop :=
  ∀ (s : State) (la ma : Bytes), s.phase = .idle → s.linkOpen = true →
    s.opSetA = some la → bsenc la = .ok ma →
    exec .setSecurity s = .next { s with
      resValid := false
      res := Results.noValue
      tx := memWriteBytes s.tx 0 (buildReq 0x32#8 ma)
      txLen := BitVec.ofNat 8 (6 + ma.length)
      curCode := some 0x32#8
      phase := .send } ∧
    ∀ lb mb : Bytes, s.opSetB = some lb → bsenc lb = .ok mb →
      exec .enable s = .next { s with
        resValid := false
        res := Results.noValue
        tx := memWriteBytes s.tx 0 (buildReq 0x34#8 (ma ++ mb))
        txLen := BitVec.ofNat 8 (6 + (ma.length + mb.length))
        curCode := some 0x34#8
        phase := .send }

/-- An index above 23 fails the operation in ACCEPT with InvalidIndex, and nothing is sent
(41_bitset.md R111, 44_commands.md R173, R175). The first clause holds for ENABLE whatever OP_SETB holds,
no value included: that an index above 23 in OP_SETA ends it before OP_SETB is read is the model's order
(log 1, DEDUCED) and no rule's. -/
def Obligations.IndexAbove23IsInvalidIndex : Prop :=
  ∀ (s : State) (la : Bytes), s.phase = .idle → s.linkOpen = true → s.opSetA = some la →
    ((∃ t ∈ la, 23 < t.toNat) →
      ∀ i ∈ maskCommands, exec i s = .next { s with
        resErr := some 7#4, resValid := true, res := Results.noValue }) ∧
    ∀ lb : Bytes, (∀ t ∈ la, t.toNat ≤ 23) → s.opSetB = some lb → (∃ t ∈ lb, 23 < t.toNat) →
      exec .enable s = .next { s with
        resErr := some 7#4, resValid := true, res := Results.noValue }

/-- On a closed link every wire command fails with ConnectionStateError before any operand is read, and
nothing is sent (43_reader.md R141; 60_exceptions.md R213). -/
def Obligations.ClosedLinkFailsEveryCommand : Prop :=
  ∀ (i : Instr) (s : State), i ∈ wireCommands → s.phase = .idle → s.linkOpen = false →
    exec i s = .next { s with resErr := some 8#4, resValid := true, res := Results.noValue }

/-- A command on an open link whose operand register holds no value is a fault
(70_reset_and_hazards.md R243): OP_RAWLEN, a byte of OP_RAW below it, OP_SETA, and for ENABLE OP_SETB
once OP_SETA has been encoded (the order is log 1's). -/
def Obligations.UnwrittenOperandFaults : Prop :=
  ∀ s : State, s.phase = .idle → s.linkOpen = true →
    (∀ i ∈ rawCommands,
      (s.opRawLen = none → exec i s = .fault (.noValue .opRawLen)) ∧
      ∀ (n : Byte) (a : Nat), s.opRawLen = some n → n.toNat ≤ 249 → a < n.toNat →
        memRead s.opRaw a = none → exec i s = .fault (.noValue .opRaw)) ∧
    (∀ i ∈ maskCommands, s.opSetA = none → exec i s = .fault (.noValue .opSetA)) ∧
    ∀ la : Bytes, s.opSetA = some la → (∀ t ∈ la, t.toNat ≤ 23) → s.opSetB = none →
      exec .enable s = .fault (.noValue .opSetB)

/-! ## OPEN and CLOSE -/

/-- OPEN (44_commands.md R186): on a closed link it asks the transport; `ok` opens the link, `err` is
TransportError with the link closed; on an open link it is ConnectionStateError and the transport is not
asked. -/
def Obligations.OpenLinkAsksTheTransport : Prop :=
  ∀ s : State, s.phase = .idle →
    (s.linkOpen = false → nextOpen s.wire = .ok →
      exec .openLink s = .next { s with
        linkOpen := true, resErr := some 0#4, resValid := true, res := Results.noValue
        wire := { s.wire with opens := s.wire.opens.tail, calls := s.wire.calls ++ [.topen] } }) ∧
    (s.linkOpen = false → nextOpen s.wire = .err →
      exec .openLink s = .next { s with
        resErr := some 1#4, resValid := true, res := Results.noValue
        wire := { s.wire with opens := s.wire.opens.tail, calls := s.wire.calls ++ [.topen] } }) ∧
    (s.linkOpen = true →
      exec .openLink s = .next { s with
        resErr := some 8#4, resValid := true, res := Results.noValue })

/-- CLOSE (44_commands.md R187): on an open link it releases the transport and closes the link; on a
closed link it is ConnectionStateError and the transport is not called. -/
def Obligations.CloseLinkReleasesTheTransport : Prop :=
  ∀ s : State, s.phase = .idle →
    (s.linkOpen = true →
      exec .closeLink s = .next { s with
        linkOpen := false, resErr := some 0#4, resValid := true, res := Results.noValue
        wire := { s.wire with calls := s.wire.calls ++ [.tclose] } }) ∧
    (s.linkOpen = false →
      exec .closeLink s = .next { s with
        resErr := some 8#4, resValid := true, res := Results.noValue })

/-- OPEN and CLOSE change nothing but the link bit, the completion status, the result registers
and, of the wire, the open answers and the calls; no byte of a buffer or stream changes, and while an
operation is in progress they change nothing (R186, R187). -/
def Obligations.LinkOperationsFrame : Prop :=
  ∀ (i : Instr) (s t : State), i = .openLink ∨ i = .closeLink → exec i s = .next t →
    (s.phase ≠ .idle → t = s) ∧
    t.phase = s.phase ∧ t.cfg = s.cfg ∧ t.attempt = s.attempt ∧ t.curCode = s.curCode ∧
    t.rspCtrl = s.rspCtrl ∧ (∀ a, memRead t.tx a = memRead s.tx a) ∧ t.txLen = s.txLen ∧
    (∀ a, memRead t.rx a = memRead s.rx a) ∧ t.rxLen = s.rxLen ∧ t.hop = s.hop ∧
    (∀ a, memRead t.opRaw a = memRead s.opRaw a) ∧ t.opRawLen = s.opRawLen ∧
    t.opSetA = s.opSetA ∧ t.opSetB = s.opSetB ∧ t.wire.wout = s.wire.wout ∧
    t.wire.win = s.wire.win ∧ t.wire.writes = s.wire.writes ∧ t.wire.reads = s.wire.reads ∧
    t.schedule = s.schedule ∧ t.request = s.request ∧ t.hostBus = s.hostBus

/-! ## SEND, RECV, PARSE, HSACK -/

/-- SEND (43_reader.md R142; 20_memory.md R45): the bytes TXBUF[0..TXLEN−1] are written once. `ok`: all
are in WOUT, the accumulator is fresh, PHASE is RECV. `err`: a first part of them is, and the operation
fails with TransportError, ATTEMPT and RXLEN unchanged. -/
def Obligations.SendWritesTheRequest : Prop :=
  ∀ (i : Instr) (s : State) (f : Bytes), i ∈ wireCommands → s.phase = .send →
    memReadBytes s.tx 0 s.txLen.toNat = some f →
    (nextWrite s.wire = .ok →
      exec i s = .next { s with
        rx := [], rxLen := 0, attempt := 0, phase := .recv
        wire := { s.wire with
          wout := s.wire.wout ++ f, writes := s.wire.writes.tail
          calls := s.wire.calls ++ [.twrite f] } }) ∧
    ∀ k, nextWrite s.wire = .err k →
      exec i s = .next { s with
        resErr := some 1#4, resValid := true, res := Results.noValue, phase := .idle
        wire := { s.wire with
          wout := s.wire.wout ++ f.take k, writes := s.wire.writes.tail
          calls := s.wire.calls ++ [.twrite f] } }

/-- RECV at the attempt limit makes no read and fails with RetryExhausted (43_reader.md R143, R145). -/
def Obligations.RetryLimitMakesNoRead : Prop :=
  ∀ (i : Instr) (s : State), i ∈ wireCommands → s.phase = .recv → s.attempt = s.cfg.maxRetry →
    exec i s = .next { s with
      resErr := some 4#4, resValid := true, res := Results.noValue, phase := .idle }

/-- RECV below the limit (43_reader.md R143, R146; 20_memory.md R46) in a state that meets the
invariant: one read. `err` is TransportError, the attempt counted. `bytes(c)`: c is taken from the front
of WIN, at most READ_CHUNK_MAX bytes, and appended; PHASE is PARSE if the frame is now complete, else it
stays RECV. -/
def Obligations.ReceiveAppendsOneChunk : Prop :=
  ∀ (i : Instr) (s : State), StateInv s → i ∈ wireCommands → s.phase = .recv →
    s.attempt ≠ s.cfg.maxRetry →
    (∀ arrived, nextRead s.wire = .err arrived →
      exec i s = .next { s with
        attempt := s.attempt + 1
        resErr := some 1#4, resValid := true, res := Results.noValue, phase := .idle
        wire := { s.wire with
          win := s.wire.win ++ arrived, reads := s.wire.reads.tail
          calls := s.wire.calls ++ [.tread] } }) ∧
    ∀ arrived n c, nextRead s.wire = .bytes arrived n →
      c = (s.wire.win ++ arrived).take (min n s.cfg.readChunkMax) →
      ∃ t, exec i s = .next t ∧
        t = { s with
          attempt := s.attempt + 1
          rx := memWriteBytes s.rx s.rxLen c
          rxLen := s.rxLen + c.length
          phase := t.phase
          wire := { s.wire with
            win := (s.wire.win ++ arrived).drop (min n s.cfg.readChunkMax)
            reads := s.wire.reads.tail, calls := s.wire.calls ++ [.tread] } } ∧
        (t.phase = .parse ∨ t.phase = .recv) ∧
        (t.phase = .parse ↔ 6 ≤ t.rxLen ∧ ∃ len, memRead t.rx 2 = some len ∧
          (len = 0x00#8 ∨ len.toNat = t.rxLen))

/-- The two successes of PARSE (43_reader.md R147, R149): a bare ACK goes to DECODE without a handshake,
a substantive response to HSACK. -/
def Obligations.ValidResponseIsClassified : Prop :=
  ∀ s : State, s.phase = .parse →
    (∀ len, exec (.rspAck len) s = .next { s with rspCtrl := some true, phase := .decode }) ∧
    ∀ len echo p, exec (.rspData len echo p) s =
      .next { s with rspCtrl := some false, phase := .hsack }

/-- The two control replies that are failures (42_frame.md R126; 60_exceptions.md R212): DeviceNack and
IllegalCommand; nothing is sent back. -/
def Obligations.ControlReplyFails : Prop :=
  ∀ (s : State) (len : Byte), s.phase = .parse →
    exec (.rspNack len) s = .next { s with
      resErr := some 5#4, resValid := true, res := Results.noValue, phase := .idle } ∧
    exec (.rspIllegal len) s = .next { s with
      resErr := some 6#4, resValid := true, res := Results.noValue, phase := .idle }

/-- A response class changes nothing but RSP_CTRL, PHASE, the completion status and the result
registers. -/
def Obligations.ResponseClassFrame : Prop :=
  ∀ (i : Instr) (s t : State), i ∉ wireCommands → i ≠ .openLink → i ≠ .closeLink →
    exec i s = .next t →
    (s.phase ≠ .parse → t = s) ∧
    t.cfg = s.cfg ∧ t.linkOpen = s.linkOpen ∧ t.attempt = s.attempt ∧ t.curCode = s.curCode ∧
    (∀ a, memRead t.tx a = memRead s.tx a) ∧ t.txLen = s.txLen ∧
    (∀ a, memRead t.rx a = memRead s.rx a) ∧ t.rxLen = s.rxLen ∧ t.hop = s.hop ∧
    (∀ a, memRead t.opRaw a = memRead s.opRaw a) ∧ t.opRawLen = s.opRawLen ∧
    t.opSetA = s.opSetA ∧ t.opSetB = s.opSetB ∧ t.wire = s.wire ∧ t.schedule = s.schedule ∧
    t.request = s.request ∧ t.hostBus = s.hostBus

/-- HSACK (43_reader.md R150, R151): the frame 02 03 06 00 C2 82 is written, no read follows; a failed
write is TransportError and the payload is not delivered. -/
def Obligations.HandshakeSendsTheAckFrame : Prop :=
  ∀ (i : Instr) (s : State) (f : Bytes), i ∈ wireCommands → s.phase = .hsack →
    f = [0x02#8, 0x03#8, 0x06#8, 0x00#8, 0xC2#8, 0x82#8] →
    (nextWrite s.wire = .ok →
      exec i s = .next { s with
        phase := .decode
        wire := { s.wire with
          wout := s.wire.wout ++ f, writes := s.wire.writes.tail
          calls := s.wire.calls ++ [.twrite f] } }) ∧
    ∀ k, nextWrite s.wire = .err k →
      exec i s = .next { s with
        resErr := some 1#4, resValid := true, res := Results.noValue, phase := .idle
        wire := { s.wire with
          wout := s.wire.wout ++ f.take k, writes := s.wire.writes.tail
          calls := s.wire.calls ++ [.twrite f] } }

/-! ## DECODE -/

/-- DECODE of the eight commands whose response is discarded (44_commands.md R190, R171, R173, R175,
R176, R177, R179, R184, R185): success whatever the payload, no result data register written. -/
def Obligations.DiscardCommandsComplete : Prop :=
  ∀ (i : Instr) (s : State) (p : Bytes), i ∈ discardCommands → s.phase = .decode → PayloadIs s p →
    exec i s = .next { s with resErr := some 0#4, resValid := true, phase := .idle }

/-- DECODE of BARCODE and GETCRC32 (44_commands.md R190, R180, R183): the payload as it is. -/
def Obligations.RawResponseIsDelivered : Prop :=
  ∀ (i : Instr) (s : State) (p : Bytes), i = .barcode ∨ i = .getCrc32 → s.phase = .decode →
    PayloadIs s p →
    exec i s = .next { s with
      resErr := some 0#4, resValid := true, phase := .idle
      res := { s.res with raw := some p, rawLen := some p.length } }

/-- DECODE of POLL (44_commands.md R174): the first byte is the status, the second, if present, the
parameter, else 0x00; further bytes are ignored. -/
def Obligations.PollDeliversStatus : Prop :=
  ∀ (s : State) (st : Byte) (rest : Bytes), s.phase = .decode → PayloadIs s (st :: rest) →
    exec .poll s = .next { s with
      resErr := some 0#4, resValid := true, phase := .idle
      res := { s.res with
        status := some st
        param := some (match rest with | [] => 0x00#8 | q :: _ => q) } }

/-- DECODE of GETSTATUS (44_commands.md R172; 41_bitset.md R113, R115): bit t of RES_SETA is bit t mod 8
of payload byte 2 − t div 8, bit t of RES_SETB is that bit of payload byte 6 − t div 8, or 0 where that
byte is missing. -/
def Obligations.StatusDeliversTwoSets : Prop :=
  ∀ (s : State) (p : Bytes), s.phase = .decode → PayloadIs s p → 3 ≤ p.length →
    ∃ a b : BitVec 24,
      exec .getStatus s = .next { s with
        resErr := some 0#4, resValid := true, phase := .idle
        res := { s.res with setA := some a, setB := some b } } ∧
      ∀ t, t < 24 →
        a.getLsbD t = (p.getD (2 - t / 8) 0x00#8).getLsbD (t % 8) ∧
        b.getLsbD t = (p.getD (6 - t / 8) 0x00#8).getLsbD (t % 8)

/-- DECODE of GETBILLTABLE (44_commands.md R181; 30_encoding.md R80): all 24 entries, entry i from
payload bytes 5i to 5i+4. -/
def Obligations.BillTableDeliversEveryEntry : Prop :=
  ∀ (s : State) (p : Bytes), s.phase = .decode → PayloadIs s p → 120 ≤ p.length →
    ∃ t : List BillEntry, t.length = 24 ∧
      exec .getBillTable s = .next { s with
        resErr := some 0#4, resValid := true, phase := .idle
        res := { s.res with bill := some t } } ∧
      ∀ i, i < 24 → ∃ e, t[i]? = some e ∧
        p[5 * i]? = some e.mant ∧ p[5 * i + 1]? = some e.cc.1 ∧ p[5 * i + 2]? = some e.cc.2.1 ∧
        p[5 * i + 3]? = some e.cc.2.2 ∧ ∃ b, p[5 * i + 4]? = some b ∧ e.exp = expDec b

/-- DECODE of IDENT (44_commands.md R178): the three slices at the instance's offsets, unchanged. -/
def Obligations.IdentDeliversThreeSlices : Prop :=
  ∀ (s : State) (p : Bytes), s.phase = .decode → PayloadIs s p → s.cfg.idMinLen ≤ p.length →
    ∃ part serial asset : Bytes, part.length = 15 ∧ serial.length = 11 ∧ asset.length = 6 ∧
      exec .ident s = .next { s with
        resErr := some 0#4, resValid := true, phase := .idle
        res := { s.res with part := some part, serial := some serial, asset := some asset } } ∧
      (∀ k, k < 15 → part[k]? = p[s.cfg.idPartOff + k]?) ∧
      (∀ k, k < 11 → serial[k]? = p[s.cfg.idSerialOff + k]?) ∧
      ∀ k, k < 6 → asset[k]? = p[s.cfg.idAssetOff + k]?

/-- A payload too short for the command's decode fails with FrameFormatError, never a made-up value
(44_commands.md R188). -/
def Obligations.ShortPayloadIsFrameFormatError : Prop :=
  ∀ (i : Instr) (s : State) (p : Bytes), s.phase = .decode → PayloadIs s p →
    (i = .poll ∧ p.length < 1) ∨ (i = .getStatus ∧ p.length < 3) ∨
      (i = .getBillTable ∧ p.length < 120) ∨ (i = .ident ∧ p.length < s.cfg.idMinLen) →
    exec i s = .next { s with
      resErr := some 2#4, resValid := true, res := Results.noValue, phase := .idle }

/-! ## Frames of the wire commands -/

/-- What no step of a wire command changes (10_state.md R28): the parameters, the link, the operand
registers, the schedule, the request line and the host bus; and CUR_CODE and TXLEN except by ACCEPT,
ATTEMPT and RXLEN except by SEND and RECV, RSP_CTRL except by PARSE, the wire except by SEND, RECV and
HSACK, the result registers and the completion status except by ACCEPT and by the step that ends the
operation (ACCEPT leaves RES_ERR alone where it does not end it). -/
def Obligations.WireCommandRegisterFrame : Prop :=
  ∀ (i : Instr) (s t : State), i ∈ wireCommands → exec i s = .next t →
    t.cfg = s.cfg ∧ t.linkOpen = s.linkOpen ∧ t.hop = s.hop ∧ t.opRawLen = s.opRawLen ∧
    t.opSetA = s.opSetA ∧ t.opSetB = s.opSetB ∧ t.schedule = s.schedule ∧
    t.request = s.request ∧ t.hostBus = s.hostBus ∧
    (s.phase ≠ .idle → t.curCode = s.curCode ∧ t.txLen = s.txLen) ∧
    (s.phase ≠ .send → s.phase ≠ .recv → t.attempt = s.attempt ∧ t.rxLen = s.rxLen) ∧
    (s.phase ≠ .parse → t.rspCtrl = s.rspCtrl) ∧
    (s.phase = .idle ∨ s.phase = .parse ∨ s.phase = .decode → t.wire = s.wire) ∧
    t.wire.opens = s.wire.opens ∧
    (s.phase ≠ .recv → t.wire.win = s.wire.win ∧ t.wire.reads = s.wire.reads) ∧
    (s.phase ≠ .send → s.phase ≠ .hsack → t.wire.wout = s.wire.wout ∧ t.wire.writes = s.wire.writes) ∧
    (s.phase ≠ .idle → t.phase ≠ .idle →
      t.res = s.res ∧ t.resValid = s.resValid ∧ t.resErr = s.resErr) ∧
    (s.phase = .idle → t.phase ≠ .idle → t.resErr = s.resErr)

/-- What no step of a wire command changes in the buffers: OP_RAW never; TXBUF only in ACCEPT, and there
only the bytes of the request; RXBUF only in RECV, and there only the bytes of the chunk appended at
RXLEN, and in a SEND that succeeds, which empties it (20_memory.md R41). -/
def Obligations.WireCommandBufferFrame : Prop :=
  ∀ (i : Instr) (s t : State) (a : Nat), i ∈ wireCommands → exec i s = .next t →
    memRead t.opRaw a = memRead s.opRaw a ∧
    (s.phase ≠ .idle → memRead t.tx a = memRead s.tx a) ∧
    (∀ code p, s.phase = .idle → wireCode i = some code → encodeHook i s = .value p →
      (buildReq code p).length ≤ a → memRead t.tx a = memRead s.tx a) ∧
    ((∀ p, encodeHook i s ≠ .value p) → memRead t.tx a = memRead s.tx a) ∧
    (s.phase ≠ .send → s.phase ≠ .recv → memRead t.rx a = memRead s.rx a) ∧
    (s.phase = .send → t.phase = .idle → memRead t.rx a = memRead s.rx a) ∧
    (s.phase = .send → t.phase = .recv → memRead t.rx a = none) ∧
    (s.phase = .recv → a < s.rxLen ∨ t.rxLen ≤ a → memRead t.rx a = memRead s.rx a)

/-! ## The machine -/

/-- A presented operation whose word decodes is run by the next block step, the request taken
(43_reader.md R141); a response that decodes is run in PARSE (R147); and a wire command in progress takes
its own step in every phase (44_commands.md R170). -/
def Obligations.StepRunsTheDecodedInstruction : Prop :=
  (∀ (s : State) (w : BitVec 10) (i : Instr), s.schedule = [] → s.phase = .idle →
    s.request = true → s.hop = some w → decode (.hop w) = .ok i →
    step s = exec i { s with request := false }) ∧
  (∀ (s : State) (f : Bytes) (i : Instr), s.schedule = [] → s.phase = .parse →
    memReadBytes s.rx 0 s.rxLen = some f → decode (.frame f) = .ok i → step s = exec i s) ∧
  (∀ (s : State) (i : Instr) (code : Byte), s.schedule = [] → s.phase ≠ .idle →
    wireCode i = some code → s.curCode = some code → step s = exec i s) ∧
  ∀ (s : State) (rest : List Turn), s.schedule = .block :: rest →
    step s = blockStep { s with schedule := rest }

/-- A complete frame that fails a check of PARSE ends the operation, and nothing is sent back
(43_reader.md R147; 42_frame.md R124, R125; 60_exceptions.md R210): FrameFormatError on a wrong start
code or address, else ChecksumMismatch on a wrong trailer. -/
def Obligations.BadResponseFails : Prop :=
  ∀ (s : State) (f : Bytes), s.schedule = [] → s.phase = .parse →
    memReadBytes s.rx 0 s.rxLen = some f →
    (f.take 2 ≠ [0x02#8, 0x03#8] →
      step s = .next { s with
        resErr := some 2#4, resValid := true, res := Results.noValue, phase := .idle }) ∧
    (f.take 2 = [0x02#8, 0x03#8] → f.drop (f.length - 2) ≠ crcTrailer (f.take (f.length - 2)) →
      step s = .next { s with
        resErr := some 3#4, resValid := true, res := Results.noValue, phase := .idle })

/-- Echo collision (30_encoding.md R86): a 6-byte response echoing 0x30, 0xFF or 0x00 is read as illegal
command, NACK or bare ACK whatever command was sent. -/
def Obligations.EchoCollisionIgnoresTheCommand : Prop :=
  ∀ (s : State) (len : Byte), s.schedule = [] → s.phase = .parse →
    (memReadBytes s.rx 0 s.rxLen = some (sealFrame len 0x30#8 []) →
      step s = .next { s with
        resErr := some 6#4, resValid := true, res := Results.noValue, phase := .idle }) ∧
    (memReadBytes s.rx 0 s.rxLen = some (sealFrame len 0xFF#8 []) →
      step s = .next { s with
        resErr := some 5#4, resValid := true, res := Results.noValue, phase := .idle }) ∧
    (memReadBytes s.rx 0 s.rxLen = some (sealFrame len 0x00#8 []) →
      step s = .next { s with rspCtrl := some true, phase := .decode })

/-- What reset leaves (70_reset_and_hazards.md R240; 10_state.md R27): the values the spec gives, and no
value in every other register and both buffers. -/
def Obligations.ResetState : Prop :=
  State.reset.phase = .idle ∧ State.reset.linkOpen = false ∧ State.reset.attempt = 0 ∧
  State.reset.txLen = 0x00#8 ∧ State.reset.rxLen = 0 ∧ State.reset.resValid = false ∧
  State.reset.curCode = none ∧ State.reset.rspCtrl = none ∧
  (∀ a, memRead State.reset.tx a = none) ∧ (∀ a, memRead State.reset.rx a = none) ∧
  State.reset.hop = none ∧ (∀ a, memRead State.reset.opRaw a = none) ∧
  State.reset.opRawLen = none ∧ State.reset.opSetA = none ∧ State.reset.opSetB = none ∧
  State.reset.resErr = none ∧ State.reset.res = Results.noValue

/-- The invariant holds after reset. -/
def Obligations.ResetMeetsTheInvariant : Prop := StateInv State.reset

/-- Every step keeps the invariant, whatever the transport answers and whatever the outside does: from
every state that meets it, not only from reset. -/
def Obligations.StepKeepsTheInvariant : Prop :=
  ∀ s t : State, StateInv s → step s = .next t → StateInv t

/-- An operation in progress never stops the model: from a state that meets the invariant, every block
step of a wire command past ACCEPT gives a next state, whatever the transport answers. -/
def Obligations.OperationInProgressNeverStops : Prop :=
  ∀ s : State, StateInv s → s.schedule = [] → s.phase ≠ .idle → ∃ t, step s = .next t

/-- A failure past ACCEPT (60_exceptions.md R214, R216): the operation has ended, no result register
holds a value, and the link, the latched registers CUR_CODE and RSP_CTRL and the buffers TXBUF and RXBUF
with their lengths are as the step found them. It says nothing of ATTEMPT, the operand registers, the
parameters or the wire. -/
def Obligations.FailureKeepsLinkLatchesAndBuffers : Prop :=
  ∀ (s t : State) (c : BitVec 4), StateInv s → s.schedule = [] → s.phase ≠ .idle → step s = .next t →
    t.resValid = true → t.resErr = some c → c ≠ 0#4 →
    t.phase = .idle ∧ t.res = Results.noValue ∧ t.linkOpen = s.linkOpen ∧
    t.curCode = s.curCode ∧ t.rspCtrl = s.rspCtrl ∧ t.txLen = s.txLen ∧ t.rxLen = s.rxLen ∧
    (∀ a, memRead t.tx a = memRead s.tx a) ∧ ∀ a, memRead t.rx a = memRead s.rx a

/-- Only OPEN and CLOSE, and a reset, change the link bit (10_state.md R12; 70_reset_and_hazards.md
R240). -/
def Obligations.OnlyLinkOperationsMoveTheLink : Prop :=
  ∀ s t : State, step s = .next t → t.linkOpen ≠ s.linkOpen →
    s.schedule.head? = some (.input .reset) ∨
    (s.phase = .idle ∧ s.request = true ∧
      (fetchOperation s = .value .openLink ∨ fetchOperation s = .value .closeLink))

/-- While the link is closed no byte is written or read (20_memory.md R47): a step from a state that meets
the invariant makes no transport call but, at most, one TOpen, and neither WOUT nor, but for bytes the
device sends, WIN changes. -/
def Obligations.ClosedLinkTransfersNothing : Prop :=
  ∀ s t : State, StateInv s → s.linkOpen = false → step s = .next t →
    (t.wire.calls = s.wire.calls ∨ t.wire.calls = s.wire.calls ++ [.topen]) ∧
    t.wire.wout = s.wire.wout ∧
    (t.wire.win = s.wire.win ∨ ∃ p : Bytes,
      s.schedule.head? = some (.input (.deviceSends p)) ∧ t.wire.win = s.wire.win ++ p)

/-- The parameters of the instance never change (00_scope.md R5; 70_reset_and_hazards.md R243). -/
def Obligations.ParametersNeverChange : Prop :=
  ∀ s t : State, step s = .next t → t.cfg = s.cfg

/-- Operands are sampled once (20_memory.md R55): past ACCEPT a block step does not depend on the operand
registers. Two states that differ only in them step alike and go on differing only in them. -/
def Obligations.OperandsAreSampledOnce : Prop :=
  ∀ (s t : State) (hop : Option (BitVec 10)) (raw : Memory) (rawLen : Option Byte)
    (setA setB : Option Bytes),
    s.schedule = [] → s.phase ≠ .idle → step s = .next t →
    step { s with hop := hop, opRaw := raw, opRawLen := rawLen, opSetA := setA, opSetB := setB } =
      .next { t with hop := hop, opRaw := raw, opRawLen := rawLen, opSetA := setA, opSetB := setB }

/-- A host write to an operand register while an operation is in progress is refused, and a host read
then sees RES_VALID as it is and faults on every other result register (20_memory.md R55,
70_reset_and_hazards.md R252); in a state that meets the invariant that RES_VALID is 0. -/
def Obligations.BusyBlockShutsTheHostOut : Prop :=
  ∀ (s : State) (rest : List Turn) (x : Input), StateInv s → s.phase ≠ .idle →
    s.schedule = .input x :: rest →
    ((∃ w, x = .writeHop w) ∨ (∃ p, x = .writeRaw p) ∨ (∃ n, x = .writeRawLen n) ∨
      (∃ l, x = .writeSetA l) ∨ (∃ l, x = .writeSetB l) →
      step s = .refused .operandWriteWhileBusy) ∧
    (x = .read .resValid → step s = .next { s with
      schedule := rest, hostBus := some (.bit false) }) ∧
    ∀ r, x = .read r → r ≠ .busy → r ≠ .linkOpen → r ≠ .resValid →
      step s = .fault (.resultNotValid r)

/-- Host reads (10_state.md R12, R15, R17): while RES_VALID = 1, each result register returns what it
holds, and one that holds no value is a fault, never zero and never an old value. "Busy", OPEN and
RES_VALID can be read at any time. That a read returns its value on a host bus and changes nothing else
is the model's form (log 15). -/
def Obligations.HostReadsReturnWhatIsHeld : Prop :=
  ∀ s : State,
    HostReads s .busy (some (.bit (decide (s.phase ≠ .idle)))) ∧
    HostReads s .linkOpen (some (.bit s.linkOpen)) ∧
    HostReads s .resValid (some (.bit s.resValid)) ∧
    (s.resValid = true →
      HostReads s .resErr (s.resErr.map .code) ∧
      HostReads s .resRaw (s.res.raw.map .bytes) ∧
      HostReads s .resRawLen (s.res.rawLen.map .count) ∧
      HostReads s .resStatus (s.res.status.map .byte) ∧
      HostReads s .resParam (s.res.param.map .byte) ∧
      HostReads s .resSetA (s.res.setA.map .mask) ∧
      HostReads s .resSetB (s.res.setB.map .mask) ∧
      HostReads s .resPart (s.res.part.map .bytes) ∧
      HostReads s .resSerial (s.res.serial.map .bytes) ∧
      HostReads s .resAsset (s.res.asset.map .bytes) ∧
      ∀ i : Fin 24,
        (s.res.bill = none → HostReads s (.resBill i) none) ∧
        ∀ (t : List BillEntry) (e : BillEntry), s.res.bill = some t → t[i.val]? = some e →
          HostReads s (.resBill i) (some (.entry e)))

/-- Host writes at IDLE (10_state.md R16): the operand register takes the value. That a write of OP_RAW
starts at index 0 and keeps the bytes past those it brings is the model's choice (log 17), as is the
refusal of what a register cannot hold (log 13). Writes while busy are `BusyBlockShutsTheHostOut`. -/
def Obligations.HostWritesReachTheOperands : Prop :=
  ∀ s : State, s.phase = .idle →
    (∀ w, Lands s (.writeHop w) (.next { s with hop := some w })) ∧
    (∀ p : Bytes, p.length ≤ 249 →
      Lands s (.writeRaw p) (.next { s with opRaw := memWriteBytes s.opRaw 0 p })) ∧
    (∀ n : Byte, n.toNat ≤ 249 → Lands s (.writeRawLen n) (.next { s with opRawLen := some n })) ∧
    (∀ l : Bytes, l.length ≤ 255 → Lands s (.writeSetA l) (.next { s with opSetA := some l })) ∧
    (∀ l : Bytes, l.length ≤ 255 → Lands s (.writeSetB l) (.next { s with opSetB := some l })) ∧
    (∀ p : Bytes, 249 < p.length → Lands s (.writeRaw p) (.refused .operandTooLong)) ∧
    (∀ n : Byte, 249 < n.toNat → Lands s (.writeRawLen n) (.refused .operandTooLong)) ∧
    (∀ l : Bytes, 255 < l.length → Lands s (.writeSetA l) (.refused .operandTooLong)) ∧
    ∀ l : Bytes, 255 < l.length → Lands s (.writeSetB l) (.refused .operandTooLong)

/-- Reset while an operation is in progress (70_reset_and_hazards.md R241, R242): the block is in the
reset state, no result is delivered, and nothing outside it has changed. -/
def Obligations.ResetAbandonsTheOperation : Prop :=
  ∀ (s : State) (rest : List Turn), s.schedule = .input .reset :: rest →
    ∃ t, step s = .next t ∧ t = { State.reset with
      cfg := s.cfg, wire := s.wire, schedule := rest, hostBus := s.hostBus }

/-- With no operation presented the idle block does nothing (10_state.md R11, 60_exceptions.md R225). -/
def Obligations.IdleBlockWaits : Prop :=
  ∀ s : State, s.schedule = [] → s.phase = .idle → s.request = false → step s = .next s

/-! ## Transactions -/

/-- The reads of a transaction (43_reader.md R145): never more than MAX_RETRY, and exactly MAX_RETRY when
it ends in RetryExhausted. -/
def Obligations.ReadsAreBoundedByMaxRetry : Prop :=
  ∀ (c : Config) (w : Wire),
    ∃ n, n ≤ c.maxRetry ∧
      (xactRead c c.maxRetry [] w).2.calls = w.calls ++ List.replicate n .tread ∧
      ((xactRead c c.maxRetry [] w).1 = .error .retryExhausted → n = c.maxRetry)

/-- What the transport sees of a transaction (43_reader.md R153): one write of the request; then at most
MAX_RETRY reads; then at most one write of ACKFRAME; in this order (20_memory.md R56). A transaction that
succeeds has made at least one read. -/
def Obligations.TransportSeesWriteReadsAck : Prop :=
  ∀ (c : Config) (f : Bytes) (dec : Bytes → Except Failure Results) (w : Wire),
    ∃ (n : Nat) (tail : List Call), n ≤ c.maxRetry ∧
      (tail = [] ∨ tail = [.twrite [0x02#8, 0x03#8, 0x06#8, 0x00#8, 0xC2#8, 0x82#8]]) ∧
      (xact c f dec w).2.calls = w.calls ++ [.twrite f] ++ List.replicate n .tread ++ tail ∧
      ∀ r, (xact c f dec w).1 = .ok r → 1 ≤ n

/-- A silent device (43_reader.md R145; 95_test_vectors.md S9): from a fresh RECV, if every read returns
nothing, exactly MAX_RETRY reads are made and the next step fails with RetryExhausted. -/
def Obligations.SilentDeviceExhaustsTheRetries : Prop :=
  ∀ s : State, StateInv s → s.schedule = [] → s.request = false → s.phase = .recv → s.attempt = 0 →
    s.wire.win = [] → s.wire.reads = List.replicate s.cfg.maxRetry (.bytes [] 0) →
    ∃ t u, runSteps s.cfg.maxRetry s = .next t ∧ t.phase = .recv ∧
      t.attempt = s.cfg.maxRetry ∧
      runSteps (s.cfg.maxRetry + 1) s = .next u ∧ u.phase = .idle ∧
      u.resValid = true ∧ u.resErr = some 4#4 ∧
      u.wire.calls = s.wire.calls ++ List.replicate s.cfg.maxRetry .tread

/-- THE STEPS COMPUTE THE TRANSACTION (43_reader.md R153, R140; 70_reset_and_hazards.md R256). From a
state that meets the invariant, with an open link and an accepted encoding, a presented wire command is
over after at most MAX_RETRY + 5 steps, whatever the transport answers; the wire is then as XACT leaves
it, and the result registers and RES_ERR say what XACT says. The empty schedule, under which every step is
the block's, is the model's form (log 6); the bound of MAX_RETRY + 5 steps is R256's and holds under its
fairness assumption, which the model builds in: every transport call is answered (log 14). -/
def Obligations.StepsComputeTheTransaction : Prop :=
  ∀ (s : State) (w : BitVec 10) (i : Instr) (code : Byte) (p : Bytes), StateInv s → s.schedule = [] →
    s.phase = .idle → s.request = true → s.linkOpen = true → s.hop = some w →
    decodeHop w = .ok i → wireCode i = some code → encodeHook i s = .value p →
    ∃ (k : Nat) (u : State), k ≤ s.cfg.maxRetry + 5 ∧ runSteps k s = .next u ∧
      u.phase = .idle ∧ u.resValid = true ∧ u.linkOpen = true ∧
      u.wire = (xact s.cfg (buildReq code p)
        (fun q => decodeHook i s.cfg q Results.noValue) s.wire).2 ∧
      match (xact s.cfg (buildReq code p)
        (fun q => decodeHook i s.cfg q Results.noValue) s.wire).1 with
      | .ok r => u.resErr = some 0#4 ∧ u.res = r
      | .error e => u.resErr = some (failureCode e) ∧ u.res = Results.noValue
end

