-- ==== Sys2Proof/Laws/Codec.lean ====
section
/-! SUPPORT. Lemmas about the pure functions: the working register of CRC16, sealed frames, and what the
frame decoder accepts. -/

namespace Sys2Proof.Machine

open Sys2Proof

/-! ## The working register -/

theorem crcRun_append (s t : Bytes) (crc : BitVec 16) :
    crcRun crc (s ++ t) = crcRun (crcRun crc s) t := by
  induction s generalizing crc with
  | nil => rfl
  | cons b s ih => exact ih _

/-- One shift written without a case split. -/
theorem crcShift_eq (c : BitVec 16) :
    crcShift c = (c >>> 1) ^^^ (if c.getLsbD 0 then 0x8408#16 else 0#16) := by
  unfold crcShift
  split <;> simp

/-- One shift is linear (40_checksum.md R106). -/
theorem crcShift_xor (a b : BitVec 16) : crcShift (a ^^^ b) = crcShift a ^^^ crcShift b := by
  rw [crcShift_eq, crcShift_eq, crcShift_eq, BitVec.getLsbD_xor, BitVec.ushiftRight_xor_distrib]
  generalize a >>> 1 = x
  generalize b >>> 1 = y
  have key : ∀ p q : Bool, x ^^^ y ^^^ (if (p ^^ q) = true then 0x8408#16 else 0#16) =
      x ^^^ (if p = true then 0x8408#16 else 0#16) ^^^
        (y ^^^ (if q = true then 0x8408#16 else 0#16)) := by
    intro p q
    apply BitVec.eq_of_getLsbD_eq
    intro i hi
    cases p <;> cases q <;> simp <;> cases x.getLsbD i <;> cases y.getLsbD i <;>
      cases (0x8408#16).getLsbD i <;> rfl
  exact key _ _

theorem crcShifts_xor (n : Nat) (a b : BitVec 16) :
    crcShifts n (a ^^^ b) = crcShifts n a ^^^ crcShifts n b := by
  induction n generalizing a b with
  | zero => rfl
  | succ n ih => rw [crcShifts, crcShift_xor, ih]; rfl

theorem crcShift_zero : crcShift 0#16 = 0#16 := by decide

/-! ## Sealed frames -/

theorem crcTrailer_length (s : Bytes) : (crcTrailer s).length = 2 := rfl

theorem frameBody_length (len code : Byte) (p : Bytes) :
    (frameBody len code p).length = 4 + p.length := by simp [frameBody]; omega

theorem sealFrame_length (len code : Byte) (p : Bytes) :
    (sealFrame len code p).length = 6 + p.length := by
  simp [sealFrame, frameBody_length, crcTrailer_length]; omega

theorem sealFrame_take (len code : Byte) (p : Bytes) :
    (sealFrame len code p).take ((sealFrame len code p).length - 2) = frameBody len code p := by
  rw [sealFrame_length, show 6 + p.length - 2 = (frameBody len code p).length by
    rw [frameBody_length]; omega]
  exact List.take_left

theorem sealFrame_drop (len code : Byte) (p : Bytes) :
    (sealFrame len code p).drop ((sealFrame len code p).length - 2) =
      crcTrailer (frameBody len code p) := by
  rw [sealFrame_length, show 6 + p.length - 2 = (frameBody len code p).length by
    rw [frameBody_length]; omega]
  exact List.drop_left

/-- The class of a sealed frame (42_frame.md R126, R127). -/
def classOf (len echo : Byte) (p : Bytes) : Instr :=
  match p with
  | [] =>
    if echo = 0x00#8 then .rspAck len
    else if echo = 0xFF#8 then .rspNack len
    else if echo = 0x30#8 then .rspIllegal len
    else .rspData len echo []
  | b :: r => .rspData len echo (b :: r)

/-- A sealed frame always decodes, to its class. -/
theorem decodeFrame_sealFrame (len echo : Byte) (p : Bytes) :
    decodeFrame (sealFrame len echo p) = .ok (classOf len echo p) := by
  have hl := sealFrame_length len echo p
  have hd := sealFrame_drop len echo p
  have ht := sealFrame_take len echo p
  have h2 : (sealFrame len echo p).take 2 = [0x02#8, 0x03#8] := rfl
  have h3 : (sealFrame len echo p).getD 2 0x00#8 = len := rfl
  have h4 : (sealFrame len echo p).getD 3 0x00#8 = echo := rfl
  rw [hl] at hd ht
  unfold decodeFrame
  simp only [h2, hl, hd, ht, h3, h4]
  rw [if_neg (by omega), if_neg (by simp), if_neg (by simp), if_neg (by omega)]
  have h5 : (frameBody len echo p).drop 4 = p := rfl
  rw [h5]
  cases p with
  | nil =>
    rw [if_pos (by simp)]
    simp only [classOf]
    split
    · rfl
    · split
      · rfl
      · split <;> rfl
  | cons b r =>
    rw [if_neg (by simp)]
    rfl

/-- Whatever the frame decoder accepts is a sealed frame. -/
theorem decodeFrame_ok {s : Bytes} {i : Instr} (h : decodeFrame s = .ok i) :
    ∃ len echo p, s = sealFrame len echo p ∧ i = classOf len echo p := by
  unfold decodeFrame at h
  simp only at h
  split at h
  · cases h
  split at h
  · cases h
  split at h
  · cases h
  split at h
  · cases h
  next h0 h1 h2 h3 =>
  simp only [ne_eq, Decidable.not_not] at h1 h2
  obtain ⟨a, b, len, echo, rest, rfl⟩ : ∃ a b len echo rest, s = a :: b :: len :: echo :: rest := by
    match s, h3 with
    | a :: b :: len :: echo :: rest, _ => exact ⟨a, b, len, echo, rest, rfl⟩
    | [], h3 => simp at h3
    | [_], h3 => simp at h3
    | [_, _], h3 => simp at h3
    | [_, _, _], h3 => simp at h3
  · simp only [List.take, List.cons.injEq, and_true] at h1
    obtain ⟨rfl, rfl⟩ := h1
    have hr : 2 ≤ rest.length := by simp at h3; omega
    have hs : (0x02#8 :: 0x03#8 :: len :: echo :: rest) =
        sealFrame len echo (rest.take (rest.length - 2)) := by
      have hb : (0x02#8 :: 0x03#8 :: len :: echo :: rest).take
          ((0x02#8 :: 0x03#8 :: len :: echo :: rest).length - 2) =
          frameBody len echo (rest.take (rest.length - 2)) := by
        rw [show (0x02#8 :: 0x03#8 :: len :: echo :: rest).length - 2 =
          (rest.length - 2) + 4 by simp; omega]
        rfl
      rw [hb] at h2
      have := List.take_append_drop ((0x02#8 :: 0x03#8 :: len :: echo :: rest).length - 2)
        (0x02#8 :: 0x03#8 :: len :: echo :: rest)
      rw [hb, h2] at this
      exact this.symm
    refine ⟨len, echo, rest.take (rest.length - 2), hs, ?_⟩
    have hd := decodeFrame_sealFrame len echo (rest.take (rest.length - 2))
    rw [← hs] at hd
    unfold decodeFrame at hd
    simp only at hd
    rw [if_neg (by omega), if_neg (by simp), if_neg (by simpa using h2), if_neg h3] at hd
    rw [hd] at h
    injection h with h
    exact h.symm

/-- The frame decoder fails only by a format error or a checksum mismatch. -/
theorem decodeFrame_error {s : Bytes} {f : Failure} (h : decodeFrame s = .error f) :
    f = .frameFormatError ∨ f = .checksumMismatch := by
  unfold decodeFrame at h
  simp only at h
  split at h
  · cases h; exact .inl rfl
  split at h
  · cases h; exact .inl rfl
  split at h
  · cases h; exact .inr rfl
  split at h
  · cases h; exact .inl rfl
  split at h
  · split at h
    · cases h
    · split at h
      · cases h
      · split at h <;> cases h
  · cases h

/-- The code of a wire command decodes to it. -/
theorem decodeWireCode_wireCode {i : Instr} {code : Byte} (h : wireCode i = some code) :
    decodeWireCode code = some i := by
  cases i <;> simp only [wireCode, Option.some.injEq, reduceCtorEq] at h <;> subst h <;> rfl

/-- Only a wire command's code decodes, and to that command. -/
theorem wireCode_decodeWireCode {i : Instr} {code : Byte} (h : decodeWireCode code = some i) :
    wireCode i = some code := by
  unfold decodeWireCode at h
  split at h <;> cases h <;> simp only [wireCode, Option.some.injEq] <;>
    (apply BitVec.eq_of_toNat_eq; simp_all)

end Sys2Proof.Machine
end

