-- ==== Sys2Proof/Laws/Memory.lean ====
section
/-! SUPPORT. What reading and writing a buffer do: a read after a write, what a write leaves alone, and
the canonical form that every write keeps. -/

namespace Sys2Proof.Machine

open Sys2Proof

@[simp] theorem memRead_nil (a : Nat) : memRead [] a = none := rfl

/-- A byte read after a byte written. -/
theorem memRead_memWrite (m : Memory) (a : Nat) (b : Byte) (c : Nat) :
    memRead (memWrite m a b) c = if c = a then some b else memRead m c := by
  induction m with
  | nil => simp [memWrite, memRead, eq_comm]
  | cons e r ih =>
    obtain ⟨k, v⟩ := e
    simp only [memWrite]
    split
    · simp only [memRead, eq_comm (a := a)]
    · split
      · next h =>
        subst h
        by_cases h : a = c
        · simp [memRead, h]
        · simp [memRead, h, eq_comm (a := c)]
      · next h =>
        by_cases hk : k = c
        · have h' : ¬ c = a := fun e => h (by omega)
          simp [memRead, hk, h']
        · simp [memRead, hk, ih]

/-- A byte read after a sequence written: inside it the sequence's byte, outside it what was there. -/
theorem memRead_memWriteBytes (s : Bytes) (m : Memory) (a c : Nat) :
    memRead (memWriteBytes m a s) c =
      if a ≤ c ∧ c < a + s.length then s[c - a]? else memRead m c := by
  induction s generalizing m a with
  | nil =>
    have h : ¬ (a ≤ c ∧ c < a + ([] : Bytes).length) := by simp
    rw [memWriteBytes, if_neg h]
  | cons b s ih =>
    rw [memWriteBytes, ih, memRead_memWrite]
    by_cases h1 : c = a
    · subst h1
      simp
    · by_cases h2 : a + 1 ≤ c ∧ c < a + 1 + s.length
      · have h3 : a ≤ c ∧ c < a + (b :: s).length := by simp; omega
        have h4 : c - a = (c - (a + 1)) + 1 := by omega
        rw [if_pos h2, if_pos h3, h4]
        rfl
      · have h3 : ¬ (a ≤ c ∧ c < a + (b :: s).length) := by simp; omega
        rw [if_neg h2, if_neg h1, if_neg h3]

/-- A write leaves every address outside the written bytes alone. -/
theorem memRead_memWriteBytes_outside (s : Bytes) (m : Memory) (a c : Nat)
    (h : c < a ∨ a + s.length ≤ c) : memRead (memWriteBytes m a s) c = memRead m c := by
  rw [memRead_memWriteBytes, if_neg (by omega)]

/-- What a slice reads: the bytes at its addresses, all of them holding a value. -/
theorem memReadBytes_eq_some (m : Memory) (a n : Nat) (s : Bytes) :
    memReadBytes m a n = some s ↔ s.length = n ∧ ∀ i, i < n → memRead m (a + i) = s[i]? := by
  induction n generalizing a s with
  | zero =>
    constructor
    · intro h
      simp [memReadBytes] at h
      subst h
      simp
    · rintro ⟨h, -⟩
      rw [List.length_eq_zero_iff.mp h]
      rfl
  | succ n ih =>
    constructor
    · intro h
      simp only [memReadBytes] at h
      split at h
      · next b t hb ht =>
        obtain ⟨hl, hr⟩ := (ih (a + 1) t).mp ht
        injection h with h
        subst h
        refine ⟨by simp [hl], ?_⟩
        intro i hi
        cases i with
        | zero => simpa using hb
        | succ i =>
          have := hr i (by omega)
          rw [show a + (i + 1) = a + 1 + i by omega, this]
          simp
      · exact absurd h (by simp)
    · rintro ⟨hl, hr⟩
      match s, hl with
      | b :: t, hl =>
        have h0 : memRead m a = some b := by simpa using hr 0 (by omega)
        have ht : memReadBytes m (a + 1) n = some t := by
          refine (ih (a + 1) t).mpr ⟨by simpa using hl, ?_⟩
          intro i hi
          have := hr (i + 1) (by omega)
          rw [show a + (i + 1) = a + 1 + i by omega] at this
          simpa using this
        simp [memReadBytes, h0, ht]

theorem memReadBytes_length {m : Memory} {a n : Nat} {s : Bytes}
    (h : memReadBytes m a n = some s) : s.length = n := ((memReadBytes_eq_some m a n s).mp h).1

theorem memReadBytes_get {m : Memory} {a n : Nat} {s : Bytes} (h : memReadBytes m a n = some s)
    {i : Nat} (hi : i < n) : memRead m (a + i) = s[i]? :=
  ((memReadBytes_eq_some m a n s).mp h).2 i hi

/-- A slice can be read exactly when every byte of it holds a value. -/
theorem memReadBytes_isSome (m : Memory) (a n : Nat) :
    (memReadBytes m a n).isSome = true ↔ ∀ i, i < n → (memRead m (a + i)).isSome = true := by
  induction n generalizing a with
  | zero => simp [memReadBytes]
  | succ n ih =>
    have key : (memReadBytes m a (n + 1)).isSome = true ↔
        (memRead m a).isSome = true ∧ (memReadBytes m (a + 1) n).isSome = true := by
      simp only [memReadBytes]
      cases memRead m a <;> cases memReadBytes m (a + 1) n <;> simp
    rw [key, ih]
    constructor
    · rintro ⟨h0, h1⟩ i hi
      cases i with
      | zero => simpa using h0
      | succ i =>
        have := h1 i (by omega)
        rwa [show a + 1 + i = a + (i + 1) by omega] at this
    · intro h
      refine ⟨by simpa using h 0 (by omega), ?_⟩
      intro i hi
      have := h (i + 1) (by omega)
      rwa [show a + (i + 1) = a + 1 + i by omega] at this

/-- What is written is read back. -/
theorem memReadBytes_memWriteBytes (m : Memory) (a : Nat) (s : Bytes) :
    memReadBytes (memWriteBytes m a s) a s.length = some s := by
  refine (memReadBytes_eq_some _ _ _ _).mpr ⟨rfl, ?_⟩
  intro i hi
  rw [memRead_memWriteBytes, if_pos (by omega)]
  congr 1
  omega

/-- A slice that starts at the same address and is longer by what is appended after it. -/
theorem memReadBytes_append (m : Memory) (a : Nat) (s c : Bytes)
    (h : memReadBytes m a s.length = some s) :
    memReadBytes (memWriteBytes m (a + s.length) c) a (s.length + c.length) = some (s ++ c) := by
  refine (memReadBytes_eq_some _ _ _ _).mpr ⟨by simp, ?_⟩
  intro i hi
  rw [memRead_memWriteBytes]
  by_cases h1 : i < s.length
  · rw [if_neg (by omega), memReadBytes_get h h1, List.getElem?_append_left h1]
  · rw [if_pos (by omega), List.getElem?_append_right (by omega)]
    congr 1
    omega

/-- A part of a slice. -/
theorem memReadBytes_drop_take {m : Memory} {n : Nat} {s : Bytes} (h : memReadBytes m 0 n = some s)
    (a k : Nat) (hk : a + k ≤ n) : memReadBytes m a k = some ((s.drop a).take k) := by
  have hl := memReadBytes_length h
  refine (memReadBytes_eq_some _ _ _ _).mpr ⟨by simp; omega, ?_⟩
  intro i hi
  have := memReadBytes_get h (show a + i < n by omega)
  rw [Nat.zero_add] at this
  rw [this, List.getElem?_take_of_lt hi, List.getElem?_drop]

/-! ## The canonical form -/

/-- Every address of a buffer in canonical form is at least its first one; below it nothing is held. -/
theorem memWf_cons (k : Nat) (v : Byte) (r : Memory) :
    memWf ((k, v) :: r) = true ↔ (∀ c ∈ r, k < c.1) ∧ memWf r = true := by
  induction r generalizing k v with
  | nil => simp [memWf]
  | cons e r ih =>
    obtain ⟨k', v'⟩ := e
    simp only [memWf, Bool.and_eq_true, decide_eq_true_eq, List.mem_cons, forall_eq_or_imp]
    constructor
    · rintro ⟨h1, h2⟩
      refine ⟨⟨h1, fun c hc => ?_⟩, h2⟩
      exact Nat.lt_trans h1 (((ih k' v').mp h2).1 c hc)
    · rintro ⟨⟨h1, -⟩, h2⟩
      exact ⟨h1, h2⟩

/-- The addresses after a write: the old ones and the written one. -/
theorem mem_memWrite {m : Memory} {a : Nat} {b : Byte} {c : Nat × Byte}
    (h : c ∈ memWrite m a b) : c = (a, b) ∨ c ∈ m := by
  induction m with
  | nil => simpa [memWrite] using h
  | cons e r ih =>
    obtain ⟨k, v⟩ := e
    simp only [memWrite] at h
    split at h
    · simpa using h
    · split at h
      · rcases List.mem_cons.mp h with h | h
        · exact .inl h
        · exact .inr (List.mem_cons_of_mem _ h)
      · rcases List.mem_cons.mp h with h | h
        · exact .inr (h ▸ List.mem_cons_self)
        · rcases ih h with h | h
          · exact .inl h
          · exact .inr (List.mem_cons_of_mem _ h)

theorem memWf_memWrite (m : Memory) (a : Nat) (b : Byte) (h : memWf m = true) :
    memWf (memWrite m a b) = true := by
  induction m with
  | nil => rfl
  | cons e r ih =>
    obtain ⟨k, v⟩ := e
    obtain ⟨h1, h2⟩ := (memWf_cons k v r).mp h
    simp only [memWrite]
    split
    · next hlt =>
      refine (memWf_cons _ _ _).mpr ⟨?_, h⟩
      intro c hc
      rcases List.mem_cons.mp hc with hc | hc
      · subst hc; exact hlt
      · exact Nat.lt_trans hlt (h1 c hc)
    · split
      · next heq =>
        subst heq
        exact (memWf_cons _ _ _).mpr ⟨h1, h2⟩
      · refine (memWf_cons _ _ _).mpr ⟨?_, ih h2⟩
        intro c hc
        rcases mem_memWrite hc with hc | hc
        · subst hc; show k < a; omega
        · exact h1 c hc

/-- Every write keeps the canonical form. -/
theorem memWf_memWriteBytes (s : Bytes) (m : Memory) (a : Nat) (h : memWf m = true) :
    memWf (memWriteBytes m a s) = true := by
  induction s generalizing m a with
  | nil => exact h
  | cons b s ih => exact ih _ _ (memWf_memWrite m a b h)

theorem memBelow_memWrite (n : Nat) (m : Memory) (a : Nat) (b : Byte) (h : memBelow n m = true)
    (ha : a < n) : memBelow n (memWrite m a b) = true := by
  simp only [memBelow, List.all_eq_true, decide_eq_true_eq] at *
  intro c hc
  rcases mem_memWrite hc with hc | hc
  · subst hc; exact ha
  · exact h c hc

/-- A write inside an address space stays inside it. -/
theorem memBelow_memWriteBytes (n : Nat) (s : Bytes) (m : Memory) (a : Nat)
    (h : memBelow n m = true) (ha : a + s.length ≤ n) :
    memBelow n (memWriteBytes m a s) = true := by
  induction s generalizing m a with
  | nil => exact h
  | cons b s ih =>
    simp only [List.length_cons] at ha
    exact ih _ _ (memBelow_memWrite n m a b h (by omega)) (by omega)

/-- The buffers of the reset state are in canonical form. -/
theorem reset_buffers_wf : memWf State.reset.tx = true ∧ memWf State.reset.rx = true ∧
    memWf State.reset.opRaw = true := ⟨rfl, rfl, rfl⟩

end Sys2Proof.Machine
end

