-- ==== Sys2Proof/Laws/State.lean ====
section
/-! SUPPORT. What each named update of State leaves in each field, true by unfolding, so that no later
proof unfolds a record update. -/

namespace Sys2Proof.Machine.State

open Sys2Proof Sys2Proof.Machine

/-! ## beginOperation -/

@[simp] theorem beginOperation_cfg (s : State) : (s.beginOperation).cfg = s.cfg := rfl
@[simp] theorem beginOperation_phase (s : State) : (s.beginOperation).phase = s.phase := rfl
@[simp] theorem beginOperation_linkOpen (s : State) :
    (s.beginOperation).linkOpen = s.linkOpen := rfl
@[simp] theorem beginOperation_attempt (s : State) : (s.beginOperation).attempt = s.attempt := rfl
@[simp] theorem beginOperation_curCode (s : State) : (s.beginOperation).curCode = s.curCode := rfl
@[simp] theorem beginOperation_rspCtrl (s : State) : (s.beginOperation).rspCtrl = s.rspCtrl := rfl
@[simp] theorem beginOperation_tx (s : State) : (s.beginOperation).tx = s.tx := rfl
@[simp] theorem beginOperation_txLen (s : State) : (s.beginOperation).txLen = s.txLen := rfl
@[simp] theorem beginOperation_rx (s : State) : (s.beginOperation).rx = s.rx := rfl
@[simp] theorem beginOperation_rxLen (s : State) : (s.beginOperation).rxLen = s.rxLen := rfl
@[simp] theorem beginOperation_hop (s : State) : (s.beginOperation).hop = s.hop := rfl
@[simp] theorem beginOperation_opRaw (s : State) : (s.beginOperation).opRaw = s.opRaw := rfl
@[simp] theorem beginOperation_opRawLen (s : State) :
    (s.beginOperation).opRawLen = s.opRawLen := rfl
@[simp] theorem beginOperation_opSetA (s : State) : (s.beginOperation).opSetA = s.opSetA := rfl
@[simp] theorem beginOperation_opSetB (s : State) : (s.beginOperation).opSetB = s.opSetB := rfl
@[simp] theorem beginOperation_resValid (s : State) : (s.beginOperation).resValid = false := rfl
@[simp] theorem beginOperation_resErr (s : State) : (s.beginOperation).resErr = s.resErr := rfl
@[simp] theorem beginOperation_res (s : State) : (s.beginOperation).res = Results.noValue := rfl
@[simp] theorem beginOperation_wire (s : State) : (s.beginOperation).wire = s.wire := rfl
@[simp] theorem beginOperation_schedule (s : State) :
    (s.beginOperation).schedule = s.schedule := rfl
@[simp] theorem beginOperation_request (s : State) : (s.beginOperation).request = s.request := rfl
@[simp] theorem beginOperation_hostBus (s : State) : (s.beginOperation).hostBus = s.hostBus := rfl

/-! ## complete -/

@[simp] theorem complete_cfg (s : State) : (s.complete).cfg = s.cfg := rfl
@[simp] theorem complete_phase (s : State) : (s.complete).phase = .idle := rfl
@[simp] theorem complete_linkOpen (s : State) : (s.complete).linkOpen = s.linkOpen := rfl
@[simp] theorem complete_attempt (s : State) : (s.complete).attempt = s.attempt := rfl
@[simp] theorem complete_curCode (s : State) : (s.complete).curCode = s.curCode := rfl
@[simp] theorem complete_rspCtrl (s : State) : (s.complete).rspCtrl = s.rspCtrl := rfl
@[simp] theorem complete_tx (s : State) : (s.complete).tx = s.tx := rfl
@[simp] theorem complete_txLen (s : State) : (s.complete).txLen = s.txLen := rfl
@[simp] theorem complete_rx (s : State) : (s.complete).rx = s.rx := rfl
@[simp] theorem complete_rxLen (s : State) : (s.complete).rxLen = s.rxLen := rfl
@[simp] theorem complete_hop (s : State) : (s.complete).hop = s.hop := rfl
@[simp] theorem complete_opRaw (s : State) : (s.complete).opRaw = s.opRaw := rfl
@[simp] theorem complete_opRawLen (s : State) : (s.complete).opRawLen = s.opRawLen := rfl
@[simp] theorem complete_opSetA (s : State) : (s.complete).opSetA = s.opSetA := rfl
@[simp] theorem complete_opSetB (s : State) : (s.complete).opSetB = s.opSetB := rfl
@[simp] theorem complete_resValid (s : State) : (s.complete).resValid = true := rfl
@[simp] theorem complete_resErr (s : State) : (s.complete).resErr = some 0#4 := rfl
@[simp] theorem complete_res (s : State) : (s.complete).res = s.res := rfl
@[simp] theorem complete_wire (s : State) : (s.complete).wire = s.wire := rfl
@[simp] theorem complete_schedule (s : State) : (s.complete).schedule = s.schedule := rfl
@[simp] theorem complete_request (s : State) : (s.complete).request = s.request := rfl
@[simp] theorem complete_hostBus (s : State) : (s.complete).hostBus = s.hostBus := rfl

/-! ## raise -/

@[simp] theorem raise_cfg (f : Failure) (s : State) : (s.raise f).cfg = s.cfg := rfl
@[simp] theorem raise_phase (f : Failure) (s : State) : (s.raise f).phase = .idle := rfl
@[simp] theorem raise_linkOpen (f : Failure) (s : State) : (s.raise f).linkOpen = s.linkOpen := rfl
@[simp] theorem raise_attempt (f : Failure) (s : State) : (s.raise f).attempt = s.attempt := rfl
@[simp] theorem raise_curCode (f : Failure) (s : State) : (s.raise f).curCode = s.curCode := rfl
@[simp] theorem raise_rspCtrl (f : Failure) (s : State) : (s.raise f).rspCtrl = s.rspCtrl := rfl
@[simp] theorem raise_tx (f : Failure) (s : State) : (s.raise f).tx = s.tx := rfl
@[simp] theorem raise_txLen (f : Failure) (s : State) : (s.raise f).txLen = s.txLen := rfl
@[simp] theorem raise_rx (f : Failure) (s : State) : (s.raise f).rx = s.rx := rfl
@[simp] theorem raise_rxLen (f : Failure) (s : State) : (s.raise f).rxLen = s.rxLen := rfl
@[simp] theorem raise_hop (f : Failure) (s : State) : (s.raise f).hop = s.hop := rfl
@[simp] theorem raise_opRaw (f : Failure) (s : State) : (s.raise f).opRaw = s.opRaw := rfl
@[simp] theorem raise_opRawLen (f : Failure) (s : State) : (s.raise f).opRawLen = s.opRawLen := rfl
@[simp] theorem raise_opSetA (f : Failure) (s : State) : (s.raise f).opSetA = s.opSetA := rfl
@[simp] theorem raise_opSetB (f : Failure) (s : State) : (s.raise f).opSetB = s.opSetB := rfl
@[simp] theorem raise_resValid (f : Failure) (s : State) : (s.raise f).resValid = true := rfl
@[simp] theorem raise_resErr (f : Failure) (s : State) :
    (s.raise f).resErr = some (failureCode f) := rfl
@[simp] theorem raise_res (f : Failure) (s : State) : (s.raise f).res = Results.noValue := rfl
@[simp] theorem raise_wire (f : Failure) (s : State) : (s.raise f).wire = s.wire := rfl
@[simp] theorem raise_schedule (f : Failure) (s : State) : (s.raise f).schedule = s.schedule := rfl
@[simp] theorem raise_request (f : Failure) (s : State) : (s.raise f).request = s.request := rfl
@[simp] theorem raise_hostBus (f : Failure) (s : State) : (s.raise f).hostBus = s.hostBus := rfl

/-! ## onWire -/

@[simp] theorem onWire_cfg (w : Wire) (s : State) : (s.onWire w).cfg = s.cfg := rfl
@[simp] theorem onWire_phase (w : Wire) (s : State) : (s.onWire w).phase = s.phase := rfl
@[simp] theorem onWire_linkOpen (w : Wire) (s : State) : (s.onWire w).linkOpen = s.linkOpen := rfl
@[simp] theorem onWire_attempt (w : Wire) (s : State) : (s.onWire w).attempt = s.attempt := rfl
@[simp] theorem onWire_curCode (w : Wire) (s : State) : (s.onWire w).curCode = s.curCode := rfl
@[simp] theorem onWire_rspCtrl (w : Wire) (s : State) : (s.onWire w).rspCtrl = s.rspCtrl := rfl
@[simp] theorem onWire_tx (w : Wire) (s : State) : (s.onWire w).tx = s.tx := rfl
@[simp] theorem onWire_txLen (w : Wire) (s : State) : (s.onWire w).txLen = s.txLen := rfl
@[simp] theorem onWire_rx (w : Wire) (s : State) : (s.onWire w).rx = s.rx := rfl
@[simp] theorem onWire_rxLen (w : Wire) (s : State) : (s.onWire w).rxLen = s.rxLen := rfl
@[simp] theorem onWire_hop (w : Wire) (s : State) : (s.onWire w).hop = s.hop := rfl
@[simp] theorem onWire_opRaw (w : Wire) (s : State) : (s.onWire w).opRaw = s.opRaw := rfl
@[simp] theorem onWire_opRawLen (w : Wire) (s : State) : (s.onWire w).opRawLen = s.opRawLen := rfl
@[simp] theorem onWire_opSetA (w : Wire) (s : State) : (s.onWire w).opSetA = s.opSetA := rfl
@[simp] theorem onWire_opSetB (w : Wire) (s : State) : (s.onWire w).opSetB = s.opSetB := rfl
@[simp] theorem onWire_resValid (w : Wire) (s : State) : (s.onWire w).resValid = s.resValid := rfl
@[simp] theorem onWire_resErr (w : Wire) (s : State) : (s.onWire w).resErr = s.resErr := rfl
@[simp] theorem onWire_res (w : Wire) (s : State) : (s.onWire w).res = s.res := rfl
@[simp] theorem onWire_wire (w : Wire) (s : State) : (s.onWire w).wire = w := rfl
@[simp] theorem onWire_schedule (w : Wire) (s : State) : (s.onWire w).schedule = s.schedule := rfl
@[simp] theorem onWire_request (w : Wire) (s : State) : (s.onWire w).request = s.request := rfl
@[simp] theorem onWire_hostBus (w : Wire) (s : State) : (s.onWire w).hostBus = s.hostBus := rfl

/-! ## latchRequest -/

@[simp] theorem latchRequest_cfg (c : Byte) (p : Bytes) (s : State) :
    (s.latchRequest c p).cfg = s.cfg := rfl
@[simp] theorem latchRequest_phase (c : Byte) (p : Bytes) (s : State) :
    (s.latchRequest c p).phase = .send := rfl
@[simp] theorem latchRequest_linkOpen (c : Byte) (p : Bytes) (s : State) :
    (s.latchRequest c p).linkOpen = s.linkOpen := rfl
@[simp] theorem latchRequest_attempt (c : Byte) (p : Bytes) (s : State) :
    (s.latchRequest c p).attempt = s.attempt := rfl
@[simp] theorem latchRequest_curCode (c : Byte) (p : Bytes) (s : State) :
    (s.latchRequest c p).curCode = some c := rfl
@[simp] theorem latchRequest_rspCtrl (c : Byte) (p : Bytes) (s : State) :
    (s.latchRequest c p).rspCtrl = s.rspCtrl := rfl
@[simp] theorem latchRequest_tx (c : Byte) (p : Bytes) (s : State) :
    (s.latchRequest c p).tx = memWriteBytes s.tx 0 (buildReq c p) := rfl
@[simp] theorem latchRequest_txLen (c : Byte) (p : Bytes) (s : State) :
    (s.latchRequest c p).txLen = BitVec.ofNat 8 (6 + p.length) := rfl
@[simp] theorem latchRequest_rx (c : Byte) (p : Bytes) (s : State) :
    (s.latchRequest c p).rx = s.rx := rfl
@[simp] theorem latchRequest_rxLen (c : Byte) (p : Bytes) (s : State) :
    (s.latchRequest c p).rxLen = s.rxLen := rfl
@[simp] theorem latchRequest_hop (c : Byte) (p : Bytes) (s : State) :
    (s.latchRequest c p).hop = s.hop := rfl
@[simp] theorem latchRequest_opRaw (c : Byte) (p : Bytes) (s : State) :
    (s.latchRequest c p).opRaw = s.opRaw := rfl
@[simp] theorem latchRequest_opRawLen (c : Byte) (p : Bytes) (s : State) :
    (s.latchRequest c p).opRawLen = s.opRawLen := rfl
@[simp] theorem latchRequest_opSetA (c : Byte) (p : Bytes) (s : State) :
    (s.latchRequest c p).opSetA = s.opSetA := rfl
@[simp] theorem latchRequest_opSetB (c : Byte) (p : Bytes) (s : State) :
    (s.latchRequest c p).opSetB = s.opSetB := rfl
@[simp] theorem latchRequest_resValid (c : Byte) (p : Bytes) (s : State) :
    (s.latchRequest c p).resValid = s.resValid := rfl
@[simp] theorem latchRequest_resErr (c : Byte) (p : Bytes) (s : State) :
    (s.latchRequest c p).resErr = s.resErr := rfl
@[simp] theorem latchRequest_res (c : Byte) (p : Bytes) (s : State) :
    (s.latchRequest c p).res = s.res := rfl
@[simp] theorem latchRequest_wire (c : Byte) (p : Bytes) (s : State) :
    (s.latchRequest c p).wire = s.wire := rfl
@[simp] theorem latchRequest_schedule (c : Byte) (p : Bytes) (s : State) :
    (s.latchRequest c p).schedule = s.schedule := rfl
@[simp] theorem latchRequest_request (c : Byte) (p : Bytes) (s : State) :
    (s.latchRequest c p).request = s.request := rfl
@[simp] theorem latchRequest_hostBus (c : Byte) (p : Bytes) (s : State) :
    (s.latchRequest c p).hostBus = s.hostBus := rfl

/-! ## startReceive -/

@[simp] theorem startReceive_cfg (s : State) : (s.startReceive).cfg = s.cfg := rfl
@[simp] theorem startReceive_phase (s : State) : (s.startReceive).phase = .recv := rfl
@[simp] theorem startReceive_linkOpen (s : State) : (s.startReceive).linkOpen = s.linkOpen := rfl
@[simp] theorem startReceive_attempt (s : State) : (s.startReceive).attempt = 0 := rfl
@[simp] theorem startReceive_curCode (s : State) : (s.startReceive).curCode = s.curCode := rfl
@[simp] theorem startReceive_rspCtrl (s : State) : (s.startReceive).rspCtrl = s.rspCtrl := rfl
@[simp] theorem startReceive_tx (s : State) : (s.startReceive).tx = s.tx := rfl
@[simp] theorem startReceive_txLen (s : State) : (s.startReceive).txLen = s.txLen := rfl
@[simp] theorem startReceive_rx (s : State) : (s.startReceive).rx = [] := rfl
@[simp] theorem startReceive_rxLen (s : State) : (s.startReceive).rxLen = 0 := rfl
@[simp] theorem startReceive_hop (s : State) : (s.startReceive).hop = s.hop := rfl
@[simp] theorem startReceive_opRaw (s : State) : (s.startReceive).opRaw = s.opRaw := rfl
@[simp] theorem startReceive_opRawLen (s : State) : (s.startReceive).opRawLen = s.opRawLen := rfl
@[simp] theorem startReceive_opSetA (s : State) : (s.startReceive).opSetA = s.opSetA := rfl
@[simp] theorem startReceive_opSetB (s : State) : (s.startReceive).opSetB = s.opSetB := rfl
@[simp] theorem startReceive_resValid (s : State) : (s.startReceive).resValid = s.resValid := rfl
@[simp] theorem startReceive_resErr (s : State) : (s.startReceive).resErr = s.resErr := rfl
@[simp] theorem startReceive_res (s : State) : (s.startReceive).res = s.res := rfl
@[simp] theorem startReceive_wire (s : State) : (s.startReceive).wire = s.wire := rfl
@[simp] theorem startReceive_schedule (s : State) : (s.startReceive).schedule = s.schedule := rfl
@[simp] theorem startReceive_request (s : State) : (s.startReceive).request = s.request := rfl
@[simp] theorem startReceive_hostBus (s : State) : (s.startReceive).hostBus = s.hostBus := rfl

/-! ## countAttempt -/

@[simp] theorem countAttempt_cfg (s : State) : (s.countAttempt).cfg = s.cfg := rfl
@[simp] theorem countAttempt_phase (s : State) : (s.countAttempt).phase = s.phase := rfl
@[simp] theorem countAttempt_linkOpen (s : State) : (s.countAttempt).linkOpen = s.linkOpen := rfl
@[simp] theorem countAttempt_attempt (s : State) : (s.countAttempt).attempt = s.attempt + 1 := rfl
@[simp] theorem countAttempt_curCode (s : State) : (s.countAttempt).curCode = s.curCode := rfl
@[simp] theorem countAttempt_rspCtrl (s : State) : (s.countAttempt).rspCtrl = s.rspCtrl := rfl
@[simp] theorem countAttempt_tx (s : State) : (s.countAttempt).tx = s.tx := rfl
@[simp] theorem countAttempt_txLen (s : State) : (s.countAttempt).txLen = s.txLen := rfl
@[simp] theorem countAttempt_rx (s : State) : (s.countAttempt).rx = s.rx := rfl
@[simp] theorem countAttempt_rxLen (s : State) : (s.countAttempt).rxLen = s.rxLen := rfl
@[simp] theorem countAttempt_hop (s : State) : (s.countAttempt).hop = s.hop := rfl
@[simp] theorem countAttempt_opRaw (s : State) : (s.countAttempt).opRaw = s.opRaw := rfl
@[simp] theorem countAttempt_opRawLen (s : State) : (s.countAttempt).opRawLen = s.opRawLen := rfl
@[simp] theorem countAttempt_opSetA (s : State) : (s.countAttempt).opSetA = s.opSetA := rfl
@[simp] theorem countAttempt_opSetB (s : State) : (s.countAttempt).opSetB = s.opSetB := rfl
@[simp] theorem countAttempt_resValid (s : State) : (s.countAttempt).resValid = s.resValid := rfl
@[simp] theorem countAttempt_resErr (s : State) : (s.countAttempt).resErr = s.resErr := rfl
@[simp] theorem countAttempt_res (s : State) : (s.countAttempt).res = s.res := rfl
@[simp] theorem countAttempt_wire (s : State) : (s.countAttempt).wire = s.wire := rfl
@[simp] theorem countAttempt_schedule (s : State) : (s.countAttempt).schedule = s.schedule := rfl
@[simp] theorem countAttempt_request (s : State) : (s.countAttempt).request = s.request := rfl
@[simp] theorem countAttempt_hostBus (s : State) : (s.countAttempt).hostBus = s.hostBus := rfl

/-! ## appendRx -/

@[simp] theorem appendRx_cfg (c : Bytes) (s : State) : (s.appendRx c).cfg = s.cfg := rfl
@[simp] theorem appendRx_phase (c : Bytes) (s : State) : (s.appendRx c).phase = s.phase := rfl
@[simp] theorem appendRx_linkOpen (c : Bytes) (s : State) :
    (s.appendRx c).linkOpen = s.linkOpen := rfl
@[simp] theorem appendRx_attempt (c : Bytes) (s : State) : (s.appendRx c).attempt = s.attempt := rfl
@[simp] theorem appendRx_curCode (c : Bytes) (s : State) : (s.appendRx c).curCode = s.curCode := rfl
@[simp] theorem appendRx_rspCtrl (c : Bytes) (s : State) : (s.appendRx c).rspCtrl = s.rspCtrl := rfl
@[simp] theorem appendRx_tx (c : Bytes) (s : State) : (s.appendRx c).tx = s.tx := rfl
@[simp] theorem appendRx_txLen (c : Bytes) (s : State) : (s.appendRx c).txLen = s.txLen := rfl
@[simp] theorem appendRx_rx (c : Bytes) (s : State) :
    (s.appendRx c).rx = memWriteBytes s.rx s.rxLen c := rfl
@[simp] theorem appendRx_rxLen (c : Bytes) (s : State) :
    (s.appendRx c).rxLen = s.rxLen + c.length := rfl
@[simp] theorem appendRx_hop (c : Bytes) (s : State) : (s.appendRx c).hop = s.hop := rfl
@[simp] theorem appendRx_opRaw (c : Bytes) (s : State) : (s.appendRx c).opRaw = s.opRaw := rfl
@[simp] theorem appendRx_opRawLen (c : Bytes) (s : State) :
    (s.appendRx c).opRawLen = s.opRawLen := rfl
@[simp] theorem appendRx_opSetA (c : Bytes) (s : State) : (s.appendRx c).opSetA = s.opSetA := rfl
@[simp] theorem appendRx_opSetB (c : Bytes) (s : State) : (s.appendRx c).opSetB = s.opSetB := rfl
@[simp] theorem appendRx_resValid (c : Bytes) (s : State) :
    (s.appendRx c).resValid = s.resValid := rfl
@[simp] theorem appendRx_resErr (c : Bytes) (s : State) : (s.appendRx c).resErr = s.resErr := rfl
@[simp] theorem appendRx_res (c : Bytes) (s : State) : (s.appendRx c).res = s.res := rfl
@[simp] theorem appendRx_wire (c : Bytes) (s : State) : (s.appendRx c).wire = s.wire := rfl
@[simp] theorem appendRx_schedule (c : Bytes) (s : State) :
    (s.appendRx c).schedule = s.schedule := rfl
@[simp] theorem appendRx_request (c : Bytes) (s : State) : (s.appendRx c).request = s.request := rfl
@[simp] theorem appendRx_hostBus (c : Bytes) (s : State) : (s.appendRx c).hostBus = s.hostBus := rfl

/-! ## goTo -/

@[simp] theorem goTo_cfg (p : Phase) (s : State) : (s.goTo p).cfg = s.cfg := rfl
@[simp] theorem goTo_phase (p : Phase) (s : State) : (s.goTo p).phase = p := rfl
@[simp] theorem goTo_linkOpen (p : Phase) (s : State) : (s.goTo p).linkOpen = s.linkOpen := rfl
@[simp] theorem goTo_attempt (p : Phase) (s : State) : (s.goTo p).attempt = s.attempt := rfl
@[simp] theorem goTo_curCode (p : Phase) (s : State) : (s.goTo p).curCode = s.curCode := rfl
@[simp] theorem goTo_rspCtrl (p : Phase) (s : State) : (s.goTo p).rspCtrl = s.rspCtrl := rfl
@[simp] theorem goTo_tx (p : Phase) (s : State) : (s.goTo p).tx = s.tx := rfl
@[simp] theorem goTo_txLen (p : Phase) (s : State) : (s.goTo p).txLen = s.txLen := rfl
@[simp] theorem goTo_rx (p : Phase) (s : State) : (s.goTo p).rx = s.rx := rfl
@[simp] theorem goTo_rxLen (p : Phase) (s : State) : (s.goTo p).rxLen = s.rxLen := rfl
@[simp] theorem goTo_hop (p : Phase) (s : State) : (s.goTo p).hop = s.hop := rfl
@[simp] theorem goTo_opRaw (p : Phase) (s : State) : (s.goTo p).opRaw = s.opRaw := rfl
@[simp] theorem goTo_opRawLen (p : Phase) (s : State) : (s.goTo p).opRawLen = s.opRawLen := rfl
@[simp] theorem goTo_opSetA (p : Phase) (s : State) : (s.goTo p).opSetA = s.opSetA := rfl
@[simp] theorem goTo_opSetB (p : Phase) (s : State) : (s.goTo p).opSetB = s.opSetB := rfl
@[simp] theorem goTo_resValid (p : Phase) (s : State) : (s.goTo p).resValid = s.resValid := rfl
@[simp] theorem goTo_resErr (p : Phase) (s : State) : (s.goTo p).resErr = s.resErr := rfl
@[simp] theorem goTo_res (p : Phase) (s : State) : (s.goTo p).res = s.res := rfl
@[simp] theorem goTo_wire (p : Phase) (s : State) : (s.goTo p).wire = s.wire := rfl
@[simp] theorem goTo_schedule (p : Phase) (s : State) : (s.goTo p).schedule = s.schedule := rfl
@[simp] theorem goTo_request (p : Phase) (s : State) : (s.goTo p).request = s.request := rfl
@[simp] theorem goTo_hostBus (p : Phase) (s : State) : (s.goTo p).hostBus = s.hostBus := rfl

/-! ## setLink -/

@[simp] theorem setLink_cfg (b : Bool) (s : State) : (s.setLink b).cfg = s.cfg := rfl
@[simp] theorem setLink_phase (b : Bool) (s : State) : (s.setLink b).phase = s.phase := rfl
@[simp] theorem setLink_linkOpen (b : Bool) (s : State) : (s.setLink b).linkOpen = b := rfl
@[simp] theorem setLink_attempt (b : Bool) (s : State) : (s.setLink b).attempt = s.attempt := rfl
@[simp] theorem setLink_curCode (b : Bool) (s : State) : (s.setLink b).curCode = s.curCode := rfl
@[simp] theorem setLink_rspCtrl (b : Bool) (s : State) : (s.setLink b).rspCtrl = s.rspCtrl := rfl
@[simp] theorem setLink_tx (b : Bool) (s : State) : (s.setLink b).tx = s.tx := rfl
@[simp] theorem setLink_txLen (b : Bool) (s : State) : (s.setLink b).txLen = s.txLen := rfl
@[simp] theorem setLink_rx (b : Bool) (s : State) : (s.setLink b).rx = s.rx := rfl
@[simp] theorem setLink_rxLen (b : Bool) (s : State) : (s.setLink b).rxLen = s.rxLen := rfl
@[simp] theorem setLink_hop (b : Bool) (s : State) : (s.setLink b).hop = s.hop := rfl
@[simp] theorem setLink_opRaw (b : Bool) (s : State) : (s.setLink b).opRaw = s.opRaw := rfl
@[simp] theorem setLink_opRawLen (b : Bool) (s : State) : (s.setLink b).opRawLen = s.opRawLen := rfl
@[simp] theorem setLink_opSetA (b : Bool) (s : State) : (s.setLink b).opSetA = s.opSetA := rfl
@[simp] theorem setLink_opSetB (b : Bool) (s : State) : (s.setLink b).opSetB = s.opSetB := rfl
@[simp] theorem setLink_resValid (b : Bool) (s : State) : (s.setLink b).resValid = s.resValid := rfl
@[simp] theorem setLink_resErr (b : Bool) (s : State) : (s.setLink b).resErr = s.resErr := rfl
@[simp] theorem setLink_res (b : Bool) (s : State) : (s.setLink b).res = s.res := rfl
@[simp] theorem setLink_wire (b : Bool) (s : State) : (s.setLink b).wire = s.wire := rfl
@[simp] theorem setLink_schedule (b : Bool) (s : State) : (s.setLink b).schedule = s.schedule := rfl
@[simp] theorem setLink_request (b : Bool) (s : State) : (s.setLink b).request = s.request := rfl
@[simp] theorem setLink_hostBus (b : Bool) (s : State) : (s.setLink b).hostBus = s.hostBus := rfl

/-! ## takeRequest -/

@[simp] theorem takeRequest_cfg (s : State) : (s.takeRequest).cfg = s.cfg := rfl
@[simp] theorem takeRequest_phase (s : State) : (s.takeRequest).phase = s.phase := rfl
@[simp] theorem takeRequest_linkOpen (s : State) : (s.takeRequest).linkOpen = s.linkOpen := rfl
@[simp] theorem takeRequest_attempt (s : State) : (s.takeRequest).attempt = s.attempt := rfl
@[simp] theorem takeRequest_curCode (s : State) : (s.takeRequest).curCode = s.curCode := rfl
@[simp] theorem takeRequest_rspCtrl (s : State) : (s.takeRequest).rspCtrl = s.rspCtrl := rfl
@[simp] theorem takeRequest_tx (s : State) : (s.takeRequest).tx = s.tx := rfl
@[simp] theorem takeRequest_txLen (s : State) : (s.takeRequest).txLen = s.txLen := rfl
@[simp] theorem takeRequest_rx (s : State) : (s.takeRequest).rx = s.rx := rfl
@[simp] theorem takeRequest_rxLen (s : State) : (s.takeRequest).rxLen = s.rxLen := rfl
@[simp] theorem takeRequest_hop (s : State) : (s.takeRequest).hop = s.hop := rfl
@[simp] theorem takeRequest_opRaw (s : State) : (s.takeRequest).opRaw = s.opRaw := rfl
@[simp] theorem takeRequest_opRawLen (s : State) : (s.takeRequest).opRawLen = s.opRawLen := rfl
@[simp] theorem takeRequest_opSetA (s : State) : (s.takeRequest).opSetA = s.opSetA := rfl
@[simp] theorem takeRequest_opSetB (s : State) : (s.takeRequest).opSetB = s.opSetB := rfl
@[simp] theorem takeRequest_resValid (s : State) : (s.takeRequest).resValid = s.resValid := rfl
@[simp] theorem takeRequest_resErr (s : State) : (s.takeRequest).resErr = s.resErr := rfl
@[simp] theorem takeRequest_res (s : State) : (s.takeRequest).res = s.res := rfl
@[simp] theorem takeRequest_wire (s : State) : (s.takeRequest).wire = s.wire := rfl
@[simp] theorem takeRequest_schedule (s : State) : (s.takeRequest).schedule = s.schedule := rfl
@[simp] theorem takeRequest_request (s : State) : (s.takeRequest).request = false := rfl
@[simp] theorem takeRequest_hostBus (s : State) : (s.takeRequest).hostBus = s.hostBus := rfl

end Sys2Proof.Machine.State
end

