-- ==== Sys2Proof/Laws/Ops.lean ====
section
/-! SUPPORT. One spec lemma per shared operation: everything it can do. -/

namespace Sys2Proof.Machine

open Sys2Proof

/-! ## The transport primitives -/

/-- A write answered `ok` (20_memory.md R45). -/
theorem twrite_ok {w : Wire} (f : Bytes) (h : nextWrite w = .ok) :
    w.twrite f = (true, { w with
      wout := w.wout ++ f, writes := w.writes.tail, calls := w.calls ++ [.twrite f] }) := by
  simp [Wire.twrite, h]

/-- A write answered `err` (20_memory.md R45). -/
theorem twrite_err {w : Wire} (f : Bytes) {k : Nat} (h : nextWrite w = .err k) :
    w.twrite f = (false, { w with
      wout := w.wout ++ f.take k, writes := w.writes.tail
      calls := w.calls ++ [.twrite f] }) := by
  simp [Wire.twrite, h]

/-- Everything a write can do. -/
theorem twrite_cases (f : Bytes) (w : Wire) :
    (∃ w', w.twrite f = (true, w') ∧ nextWrite w = .ok) ∨
      ∃ k w', w.twrite f = (false, w') ∧ nextWrite w = .err k := by
  cases h : nextWrite w with
  | ok => exact .inl ⟨_, twrite_ok f h, rfl⟩
  | err k => exact .inr ⟨k, _, twrite_err f h, rfl⟩

theorem twrite_win (f : Bytes) (w : Wire) : (w.twrite f).2.win = w.win := by
  unfold Wire.twrite; split <;> rfl

theorem twrite_calls (f : Bytes) (w : Wire) : (w.twrite f).2.calls = w.calls ++ [.twrite f] := by
  unfold Wire.twrite; split <;> rfl

/-- A read answered `bytes` (20_memory.md R46). -/
theorem tread_bytes {w : Wire} (chunk : Nat) {arrived : Bytes} {n : Nat}
    (h : nextRead w = .bytes arrived n) :
    w.tread chunk = (some ((w.win ++ arrived).take (min n chunk)), { w with
      win := (w.win ++ arrived).drop (min n chunk), reads := w.reads.tail
      calls := w.calls ++ [.tread] }) := by
  simp [Wire.tread, h]

/-- A read answered `err` (20_memory.md R46). -/
theorem tread_err {w : Wire} (chunk : Nat) {arrived : Bytes} (h : nextRead w = .err arrived) :
    w.tread chunk = (none, { w with
      win := w.win ++ arrived, reads := w.reads.tail, calls := w.calls ++ [.tread] }) := by
  simp [Wire.tread, h]

theorem tread_calls (chunk : Nat) (w : Wire) :
    (w.tread chunk).2.calls = w.calls ++ [.tread] := by
  unfold Wire.tread; split <;> rfl

theorem tread_wout (chunk : Nat) (w : Wire) : (w.tread chunk).2.wout = w.wout := by
  unfold Wire.tread; split <;> rfl

/-- A read returns at most READ_CHUNK_MAX bytes (20_memory.md R46). -/
theorem tread_length {chunk : Nat} {w w' : Wire} {c : Bytes}
    (h : w.tread chunk = (some c, w')) : c.length ≤ chunk := by
  unfold Wire.tread at h
  split at h
  · injection h with h1 _
    injection h1 with h1
    subst h1
    simp only [List.length_take]
    omega
  · simp at h

/-- Everything a read can do. -/
theorem tread_cases (chunk : Nat) (w : Wire) :
    (∃ w', w.tread chunk = (none, w')) ∨
      ∃ c w', w.tread chunk = (some c, w') ∧ c.length ≤ chunk := by
  rcases h : w.tread chunk with ⟨_ | c, w'⟩
  · exact .inl ⟨w', rfl⟩
  · exact .inr ⟨c, w', rfl, tread_length h⟩

/-! ## The wire commands -/

/-- Every wire command's meaning is the shared skeleton with its code and its two hooks
(44_commands.md R170). -/
theorem exec_wireCommand {i : Instr} {code : Byte} (h : wireCode i = some code) (s : State) :
    exec i s = wireCommand code (encodeHook i) (decodeHook i) s := by
  cases i <;> simp only [wireCode, Option.some.injEq, reduceCtorEq] at h <;> subst h <;> rfl

theorem mem_wireCommands {i : Instr} : i ∈ wireCommands ↔ ∃ code, wireCode i = some code := by
  cases i <;> simp [wireCommands, rawCommands, plainCommands, maskCommands, wireCode]

theorem wireCommand_idle {code enc dec} {s : State} (h : s.phase = .idle) :
    wireCommand code enc dec s = acceptStep code enc s := by simp [wireCommand, h]

theorem wireCommand_send {code enc dec} {s : State} (h : s.phase = .send) :
    wireCommand code enc dec s = sendStep s := by simp [wireCommand, h]

theorem wireCommand_recv {code enc dec} {s : State} (h : s.phase = .recv) :
    wireCommand code enc dec s = recvStep s := by simp [wireCommand, h]

theorem wireCommand_parse {code enc dec} {s : State} (h : s.phase = .parse) :
    wireCommand code enc dec s = parseStep s := by simp [wireCommand, h]

theorem wireCommand_hsack {code enc dec} {s : State} (h : s.phase = .hsack) :
    wireCommand code enc dec s = hsackStep s := by simp [wireCommand, h]

theorem wireCommand_decode {code enc dec} {s : State} (h : s.phase = .decode) :
    wireCommand code enc dec s = decodeStep dec s := by simp [wireCommand, h]

/-! ## The sequencer steps: everything each can do -/

/-- ACCEPT (43_reader.md R141). -/
theorem acceptStep_next {code : Byte} {enc : State → Hook Bytes} {s t : State}
    (h : acceptStep code enc s = .next t) :
    (s.linkOpen = false ∧ t = s.beginOperation.raise .connectionStateError) ∨
    (s.linkOpen = true ∧ ∃ f, enc s = .raise f ∧ t = s.beginOperation.raise f) ∨
    (s.linkOpen = true ∧ ∃ p, enc s = .value p ∧ t = s.beginOperation.latchRequest code p) := by
  unfold acceptStep at h
  split at h
  · next hl =>
    split at h
    · next p hp => injection h with h; exact .inr (.inr ⟨hl, p, hp, h.symm⟩)
    · next f hf => injection h with h; exact .inr (.inl ⟨hl, f, hf, h.symm⟩)
    · cases h
    · cases h
  · next hl =>
    injection h with h
    exact .inl ⟨by simpa using hl, h.symm⟩

/-- OPEN (44_commands.md R186). -/
theorem openStep_next {s t : State} (h : openStep s = .next t) :
    (s.linkOpen = true ∧ t = s.beginOperation.raise .connectionStateError) ∨
    (s.linkOpen = false ∧
      ((∃ w, s.wire.topen = (true, w) ∧
          t = ((s.beginOperation.onWire w).setLink true).complete) ∨
        ∃ w, s.wire.topen = (false, w) ∧
          t = (s.beginOperation.onWire w).raise .transportError)) := by
  unfold openStep at h
  split at h
  · next hl => injection h with h; exact .inl ⟨hl, h.symm⟩
  · next hl =>
    refine .inr ⟨by simpa using hl, ?_⟩
    split at h
    · next w hw => injection h with h; exact .inl ⟨w, hw, h.symm⟩
    · next w hw => injection h with h; exact .inr ⟨w, hw, h.symm⟩

/-- CLOSE (44_commands.md R187). -/
theorem closeStep_next {s t : State} (h : closeStep s = .next t) :
    (s.linkOpen = false ∧ t = s.beginOperation.raise .connectionStateError) ∨
    (s.linkOpen = true ∧
      t = ((s.beginOperation.onWire s.wire.tclose).setLink false).complete) := by
  unfold closeStep at h
  split at h
  · next hl => injection h with h; exact .inr ⟨hl, h.symm⟩
  · next hl => injection h with h; exact .inl ⟨by simpa using hl, h.symm⟩

/-- A step that only one phase enables (43_reader.md R140). -/
theorem whenPhase_next {p : Phase} {k : State → Result} {s t : State}
    (h : whenPhase p k s = .next t) : (s.phase = p ∧ k s = .next t) ∨ (s.phase ≠ p ∧ t = s) := by
  unfold whenPhase at h
  split at h
  · next hp => exact .inl ⟨hp, h⟩
  · next hp => injection h with h; exact .inr ⟨hp, h.symm⟩

/-- SEND (43_reader.md R142). -/
theorem sendStep_next {s t : State} (h : sendStep s = .next t) :
    ∃ f, memReadBytes s.tx 0 s.txLen.toNat = some f ∧
      ((∃ w, s.wire.twrite f = (true, w) ∧ t = (s.onWire w).startReceive) ∨
        ∃ w, s.wire.twrite f = (false, w) ∧ t = (s.onWire w).raise .transportError) := by
  unfold sendStep at h
  split at h
  · cases h
  · next f hf =>
    refine ⟨f, hf, ?_⟩
    split at h
    · next w hw => injection h with h; exact .inl ⟨w, hw, h.symm⟩
    · next w hw => injection h with h; exact .inr ⟨w, hw, h.symm⟩

/-- What RECV does with a chunk (43_reader.md R143, R146). -/
theorem recvChunk_next {c : Bytes} {s t : State} (h : recvChunk c s = .next t) :
    s.rxLen + c.length ≤ s.cfg.rxCap ∧
      ((rxComplete (s.appendRx c) = some true ∧ t = (s.appendRx c).goTo .parse) ∨
        (rxComplete (s.appendRx c) = some false ∧ t = s.appendRx c)) := by
  unfold recvChunk at h
  split at h
  · next hc =>
    refine ⟨hc, ?_⟩
    split at h
    · next hr => injection h with h; exact .inl ⟨hr, h.symm⟩
    · next hr => injection h with h; exact .inr ⟨hr, h.symm⟩
    · cases h
  · cases h

/-- RECV (43_reader.md R143). -/
theorem recvStep_next {s t : State} (h : recvStep s = .next t) :
    (s.attempt = s.cfg.maxRetry ∧ t = s.raise .retryExhausted) ∨
    (s.attempt ≠ s.cfg.maxRetry ∧
      ((∃ w, s.wire.tread s.cfg.readChunkMax = (none, w) ∧
          t = (s.countAttempt.onWire w).raise .transportError) ∨
        ∃ c w, s.wire.tread s.cfg.readChunkMax = (some c, w) ∧
          recvChunk c (s.countAttempt.onWire w) = .next t)) := by
  unfold recvStep at h
  split at h
  · next ha => injection h with h; exact .inl ⟨ha, h.symm⟩
  · next ha =>
    refine .inr ⟨ha, ?_⟩
    split at h
    · next w hw => injection h with h; exact .inl ⟨w, hw, h.symm⟩
    · next c w hw => exact .inr ⟨c, w, hw, h⟩

/-- HSACK (43_reader.md R150). -/
theorem hsackStep_next {s t : State} (h : hsackStep s = .next t) :
    (∃ w, s.wire.twrite ackFrame = (true, w) ∧ t = (s.onWire w).goTo .decode) ∨
      ∃ w, s.wire.twrite ackFrame = (false, w) ∧ t = (s.onWire w).raise .transportError := by
  unfold hsackStep at h
  split at h
  · next w hw => injection h with h; exact .inl ⟨w, hw, h.symm⟩
  · next w hw => injection h with h; exact .inr ⟨w, hw, h.symm⟩

/-- PARSE by the class of the accumulated frame (43_reader.md R147). -/
theorem parseStep_next {s t : State} (hp : s.phase = .parse) (h : parseStep s = .next t) :
    ∃ f, memReadBytes s.rx 0 s.rxLen = some f ∧
      ((parseRsp f = .ack ∧ t = { s with rspCtrl := some true, phase := .decode }) ∨
        (∃ p, parseRsp f = .data p ∧ t = { s with rspCtrl := some false, phase := .hsack }) ∨
        ∃ e, parseRsp f = .fail e ∧ t = s.raise e) := by
  unfold parseStep at h
  split at h
  · cases h
  · next f hf =>
    refine ⟨f, hf, ?_⟩
    unfold parseRsp
    split at h <;>
      simp_all [execRspAck, execRspNack, execRspIllegal, execRspData, whenPhase, parsedAs,
        parsedFailure]

/-- PARSE as a function of PARSERSP. -/
theorem parseStep_eq {s : State} {f : Bytes} (hp : s.phase = .parse)
    (hf : memReadBytes s.rx 0 s.rxLen = some f) :
    parseStep s = match parseRsp f with
      | .ack => .next { s with rspCtrl := some true, phase := .decode }
      | .data _ => .next { s with rspCtrl := some false, phase := .hsack }
      | .fail e => .next (s.raise e) := by
  unfold parseStep parseRsp
  simp only [hf]
  rcases hd : decodeFrame f with e | i
  · rfl
  · cases i <;> simp [execRspAck, execRspNack, execRspIllegal, execRspData, whenPhase, hp, parsedAs,
      parsedFailure]

/-- The payload DECODE hands on (43_reader.md R148). -/
theorem decodePayload_value {s : State} {p : Bytes} :
    decodePayload s = .value p ↔ PayloadIs s p := by
  unfold decodePayload PayloadIs
  rcases s.rspCtrl with _ | _ | _
  · simp
  · rcases memReadBytes s.rx 4 (s.rxLen - 6) with _ | q <;> simp
  · simp [eq_comm]

theorem decodePayload_not_raise (s : State) (f : Failure) : decodePayload s ≠ .raise f := by
  unfold decodePayload
  split
  · simp
  · simp
  · split <;> simp

/-- DECODE as a function of the payload and the hook (43_reader.md R152). -/
theorem decodeStep_eq {dec : Config → Bytes → Results → Except Failure Results} {s : State}
    {p : Bytes} (h : PayloadIs s p) :
    decodeStep dec s = match dec s.cfg p s.res with
      | .error f => .next (s.raise f)
      | .ok r => .next { s with
          res := r, resErr := some 0#4, resValid := true, phase := .idle } := by
  unfold decodeStep
  rw [decodePayload_value.mpr h]
  rfl

/-- DECODE (43_reader.md R152). -/
theorem decodeStep_next {dec : Config → Bytes → Results → Except Failure Results} {s t : State}
    (h : decodeStep dec s = .next t) :
    ∃ p, PayloadIs s p ∧
      ((∃ f, dec s.cfg p s.res = .error f ∧ t = s.raise f) ∨
        ∃ r, dec s.cfg p s.res = .ok r ∧
          t = { s with res := r, resErr := some 0#4, resValid := true, phase := .idle }) := by
  rcases hd : decodePayload s with p | f | r | r
  · have hp := decodePayload_value.mp hd
    refine ⟨p, hp, ?_⟩
    rw [decodeStep_eq hp] at h
    split at h
    · next f hf => injection h with h; exact .inl ⟨f, hf, h.symm⟩
    · next r hr => injection h with h; exact .inr ⟨r, hr, h.symm⟩
  · exact absurd hd (decodePayload_not_raise s f)
  · unfold decodeStep at h; rw [hd] at h; cases h
  · unfold decodeStep at h; rw [hd] at h; cases h

/-! ## The block's turn -/

/-- A response class is never a host operation. -/
theorem decodeFrame_class {f : Bytes} {i : Instr} (h : decodeFrame f = .ok i) :
    wireCode i = none ∧ i ≠ .openLink ∧ i ≠ .closeLink := by
  obtain ⟨len, echo, p, -, rfl⟩ := decodeFrame_ok h
  cases p with
  | nil =>
    simp only [classOf]
    split
    · simp [wireCode]
    · split
      · simp [wireCode]
      · split <;> simp [wireCode]
  | cons b r => simp [classOf, wireCode]

/-- PARSE run through fetch and exec is PARSE as the wire commands run it. -/
theorem blockStep_parse {s : State} (h : s.phase = .parse) : blockStep s = parseStep s := by
  unfold blockStep parseStep
  simp only [h, fetchResponse]
  rcases memReadBytes s.rx 0 s.rxLen with _ | f
  · rfl
  · simp only
    rcases hd : decodeFrame f with e | i
    · rfl
    · have hc := decodeFrame_class hd
      cases i <;> simp_all [wireCode] <;> rfl

/-- While a wire command is in progress, the block's step is that command's (44_commands.md R170). -/
theorem blockStep_busy {s : State} {i : Instr} {code : Byte} (h : s.phase ≠ .idle)
    (hc : s.curCode = some code) (hi : wireCode i = some code) : blockStep s = exec i s := by
  rw [exec_wireCommand hi]
  unfold wireCommand
  rcases hp : s.phase
  · exact absurd hp h
  · simp [blockStep, hp]
  · simp [blockStep, hp]
  · simp only; exact blockStep_parse hp
  · simp [blockStep, hp]
  · simp only [blockStep, hp, fetchLatched, hc, decodeWireCode_wireCode hi]
    rw [exec_wireCommand hi, wireCommand_decode hp]

end Sys2Proof.Machine
end

