-- ==== Sys2Proof/Laws/Invariant.lean ====
section
/-! SUPPORT. What the named updates of State and the hooks do to the invariant StateInv: each keeps it
under the conditions its lemma names. -/

namespace Sys2Proof.Machine

open Sys2Proof

theorem noValue_sized (n : Nat) : Results.noValue.Sized n := by
  constructor <;> simp [Results.noValue]

/-- The fields the invariant does not speak of. -/
theorem StateInv.side {s : State} (h : StateInv s) (w : Wire) (sch : List Turn) (rq : Bool)
    (hb : Option HostValue) (hop : Option (BitVec 10)) :
    StateInv { s with wire := w, schedule := sch, request := rq, hostBus := hb, hop := hop } :=
  ⟨h.txForm, h.txSpace, h.rxForm, h.opRawForm, h.opRawSpace, h.rxHeld, h.attempts, h.rxBound,
    h.opRawLenMax, h.opSetAMax, h.opSetBMax, h.errRange, h.errWritten, h.resultsEmpty,
    h.resultsSized, h.busy, h.completed, h.classified⟩

theorem StateInv.onWire {s : State} (h : StateInv s) (w : Wire) : StateInv (s.onWire w) :=
  h.side w s.schedule s.request s.hostBus s.hop

/-- Entering a failure keeps the invariant (60_exceptions.md R214). -/
theorem StateInv.raise {s : State} (h : StateInv s) (f : Failure) : StateInv (s.raise f) where
  txForm := h.txForm
  txSpace := h.txSpace
  rxForm := h.rxForm
  opRawForm := h.opRawForm
  opRawSpace := h.opRawSpace
  rxHeld := h.rxHeld
  attempts := h.attempts
  rxBound := h.rxBound
  opRawLenMax := h.opRawLenMax
  opSetAMax := h.opSetAMax
  opSetBMax := h.opSetBMax
  errRange c hc := by
    simp only [State.raise_resErr, Option.some.injEq] at hc
    subst hc
    cases f <;> decide
  errWritten _ := rfl
  resultsEmpty _ := rfl
  resultsSized := noValue_sized _
  busy hp := absurd rfl hp
  completed hp := by rcases hp with hp | hp | hp <;> cases hp
  classified := ⟨(fun hp => by cases hp), (fun hp => by cases hp)⟩

theorem StateInv.beginOperation {s : State} (h : StateInv s) (hp : s.phase = .idle) :
    StateInv s.beginOperation where
  txForm := h.txForm
  txSpace := h.txSpace
  rxForm := h.rxForm
  opRawForm := h.opRawForm
  opRawSpace := h.opRawSpace
  rxHeld := h.rxHeld
  attempts := h.attempts
  rxBound := h.rxBound
  opRawLenMax := h.opRawLenMax
  opSetAMax := h.opSetAMax
  opSetBMax := h.opSetBMax
  errRange := h.errRange
  errWritten hv := by cases hv
  resultsEmpty _ := rfl
  resultsSized := noValue_sized _
  busy hq := absurd hp hq
  completed hq := by simp [hp] at hq
  classified := by simp [hp]

theorem StateInv.setLink {s : State} (h : StateInv s) (hp : s.phase = .idle) (b : Bool) :
    StateInv (s.setLink b) :=
  ⟨h.txForm, h.txSpace, h.rxForm, h.opRawForm, h.opRawSpace, h.rxHeld, h.attempts, h.rxBound,
    h.opRawLenMax, h.opSetAMax, h.opSetBMax, h.errRange, h.errWritten, h.resultsEmpty,
    h.resultsSized, (fun hq => absurd hp hq), by simp [hp], by simp [hp]⟩

/-- Success with results that fit keeps the invariant (43_reader.md R152). -/
theorem StateInv.complete {s : State} (h : StateInv s) (r : Results) (hr : r.Sized s.cfg.rxCap) :
    StateInv ({ s with res := r } : State).complete where
  txForm := h.txForm
  txSpace := h.txSpace
  rxForm := h.rxForm
  opRawForm := h.opRawForm
  opRawSpace := h.opRawSpace
  rxHeld := h.rxHeld
  attempts := h.attempts
  rxBound := h.rxBound
  opRawLenMax := h.opRawLenMax
  opSetAMax := h.opSetAMax
  opSetBMax := h.opSetBMax
  errRange c hc := by
    simp only [State.complete_resErr, Option.some.injEq] at hc
    subst hc
    decide
  errWritten _ := rfl
  resultsEmpty hn := absurd ⟨rfl, rfl⟩ hn
  resultsSized := hr
  busy hp := absurd rfl hp
  completed hp := by rcases hp with hp | hp | hp <;> cases hp
  classified := ⟨(fun hp => by cases hp), (fun hp => by cases hp)⟩

/-- Latching a request of at most 249 payload bytes keeps the invariant (43_reader.md R141). -/
theorem StateInv.latchRequest {s : State} (h : StateInv s) (hv : s.resValid = false)
    (hl : s.linkOpen = true) {i : Instr} {code : Byte} (hc : wireCode i = some code) (p : Bytes)
    (hlen : p.length ≤ 249) : StateInv (s.latchRequest code p) where
  txForm := memWf_memWriteBytes _ _ _ h.txForm
  txSpace := memBelow_memWriteBytes _ _ _ _ h.txSpace (by
    show 0 + (sealFrame _ _ _).length ≤ 255
    rw [sealFrame_length]; omega)
  rxForm := h.rxForm
  opRawForm := h.opRawForm
  opRawSpace := h.opRawSpace
  rxHeld := h.rxHeld
  attempts := h.attempts
  rxBound := h.rxBound
  opRawLenMax := h.opRawLenMax
  opSetAMax := h.opSetAMax
  opSetBMax := h.opSetBMax
  errRange := h.errRange
  errWritten := h.errWritten
  resultsEmpty := h.resultsEmpty
  resultsSized := h.resultsSized
  busy _ := by
    refine ⟨hl, hv, i, code, p, hc, rfl, hlen, ?_, ?_⟩
    · simp only [State.latchRequest, BitVec.toNat_ofNat]; omega
    · have := memReadBytes_memWriteBytes s.tx 0 (buildReq code p)
      rwa [show (buildReq code p).length = 6 + p.length from sealFrame_length _ _ _] at this
  completed hp := by rcases hp with hp | hp | hp <;> cases hp
  classified := ⟨(fun hp => by cases hp), (fun hp => by cases hp)⟩

/-- The completeness test, as 43_reader.md R144 words it. -/
theorem rxComplete_iff {s : State} : rxComplete s = some true ↔
    6 ≤ s.rxLen ∧ ∃ len, memRead s.rx 2 = some len ∧ (len = 0x00#8 ∨ len.toNat = s.rxLen) := by
  unfold rxComplete
  by_cases h : s.rxLen < 6
  · simp [h]
  · rw [if_neg h]
    cases hm : memRead s.rx 2 with
    | none => simp
    | some v =>
      simp [frameComplete, h, show 6 ≤ s.rxLen by omega]
      try tauto

/-- The completeness test has an answer where the bytes below RXLEN are held. -/
theorem rxComplete_some {s : State}
    (h : ∀ a, (memRead s.rx a).isSome = true ↔ a < s.rxLen) :
    rxComplete s = some true ∨ rxComplete s = some false := by
  unfold rxComplete
  split
  · exact .inr rfl
  · obtain ⟨v, hv⟩ := Option.isSome_iff_exists.mp ((h 2).mpr (by omega))
    rw [hv]
    simp

/-- An append keeps "exactly the bytes below RXLEN are held" (20_memory.md R41). -/
theorem appendRx_held {s : State} (c : Bytes)
    (h : ∀ a, (memRead s.rx a).isSome = true ↔ a < s.rxLen) (a : Nat) :
    (memRead (s.appendRx c).rx a).isSome = true ↔ a < (s.appendRx c).rxLen := by
  show (memRead (memWriteBytes s.rx s.rxLen c) a).isSome = true ↔ a < s.rxLen + c.length
  rw [memRead_memWriteBytes]
  split
  · next h' => rw [List.getElem?_eq_getElem (by omega)]; simp; omega
  · next h' => rw [h]; omega

/-- RXLEN is within the capacity (43_reader.md R146). -/
theorem StateInv.rx_cap {s : State} (h : StateInv s) : s.rxLen ≤ s.cfg.rxCap := by
  have h1 := h.rxBound
  have h2 := Nat.mul_le_mul_right s.cfg.readChunkMax h.attempts
  unfold Config.rxCap
  omega

/-- BSENC gives three bytes (41_bitset.md R110). -/
theorem bsenc_length {l m : Bytes} (h : bsenc l = .ok m) : m.length = 3 := by
  have key : ∀ (l m : Bytes), (l.foldl bsSetIndex m).length = m.length := by
    intro l
    induction l with
    | nil => intro m; rfl
    | cons a l ih => intro m; simp [ih, bsSetIndex]
  unfold bsenc at h
  split at h
  · injection h with h; subst h; rw [key]; rfl
  · cases h

theorem encodeMask_length {r : Reg} {l : Option Bytes} {m : Bytes}
    (h : encodeMask r l = .value m) : m.length = 3 := by
  unfold encodeMask at h
  split at h
  · cases h
  · split at h
    · next hb => injection h with h; subst h; exact bsenc_length hb
    · cases h

/-- Every encode hook gives at most TXPAYMAX bytes (30_encoding.md R74). -/
theorem encodeHook_length {i : Instr} {s : State} {p : Bytes} (h : encodeHook i s = .value p) :
    p.length ≤ 249 := by
  have raw : ∀ {p}, encodeRaw s = .value p → p.length ≤ 249 := by
    intro p h
    unfold encodeRaw at h
    split at h
    · cases h
    · split at h
      · next hn =>
        split at h
        · next hm => injection h with h; subst h; rw [memReadBytes_length hm]; exact hn
        · cases h
      · cases h
  have plain : ∀ {p}, encodeNone s = .value p → p.length ≤ 249 := by
    intro p h; injection h with h; subst h; simp
  have one : ∀ {p}, encodeSetSecurity s = .value p → p.length ≤ 249 := by
    intro p h; rw [encodeMask_length h]; omega
  have two : ∀ {p}, encodeEnable s = .value p → p.length ≤ 249 := by
    intro p h
    unfold encodeEnable at h
    split at h
    · next ha =>
      split at h
      · next hb => injection h with h; subst h; simp [encodeMask_length ha, encodeMask_length hb]
      all_goals cases h
    all_goals cases h
  cases i <;> first | exact plain h | exact one h | exact two h | exact raw h

end Sys2Proof.Machine
end

