-- ==== Sys2Proof/Laws/PerInstr.lean ====
section
/-! SUPPORT. What holds of every instruction, one lemma per constructor. -/

namespace Sys2Proof.Laws

set_option Elab.async false

/-- An instruction has command code `code` exactly when its words are the operation word of kind 0 with
that code (30_encoding.md R71, R72): OPEN, CLOSE and the response classes have none. -/
def KindZero.Statement (i : Instr) : Prop :=
  ∀ code : Byte, wireCode i = some code ↔ encode i = .hop (code.setWidth 10)

theorem KindZero.reset : KindZero.Statement .reset := by unfold KindZero.Statement; decide +kernel
theorem KindZero.getStatus : KindZero.Statement .getStatus := by
  unfold KindZero.Statement; decide +kernel
theorem KindZero.setSecurity : KindZero.Statement .setSecurity := by
  unfold KindZero.Statement; decide +kernel
theorem KindZero.poll : KindZero.Statement .poll := by unfold KindZero.Statement; decide +kernel
theorem KindZero.enable : KindZero.Statement .enable := by unfold KindZero.Statement; decide +kernel
theorem KindZero.stack : KindZero.Statement .stack := by unfold KindZero.Statement; decide +kernel
theorem KindZero.returnBill : KindZero.Statement .returnBill := by
  unfold KindZero.Statement; decide +kernel
theorem KindZero.ident : KindZero.Statement .ident := by unfold KindZero.Statement; decide +kernel
theorem KindZero.hold : KindZero.Statement .hold := by unfold KindZero.Statement; decide +kernel
theorem KindZero.barcode : KindZero.Statement .barcode := by unfold KindZero.Statement; decide +kernel
theorem KindZero.getBillTable : KindZero.Statement .getBillTable := by
  unfold KindZero.Statement; decide +kernel
theorem KindZero.getCrc32 : KindZero.Statement .getCrc32 := by
  unfold KindZero.Statement; decide +kernel
theorem KindZero.ack : KindZero.Statement .ack := by unfold KindZero.Statement; decide +kernel
theorem KindZero.nack : KindZero.Statement .nack := by unfold KindZero.Statement; decide +kernel
theorem KindZero.openLink : KindZero.Statement .openLink := by
  unfold KindZero.Statement; decide +kernel
theorem KindZero.closeLink : KindZero.Statement .closeLink := by
  unfold KindZero.Statement; decide +kernel
theorem KindZero.rspAck (len : Byte) : KindZero.Statement (.rspAck len) := by
  intro code; simp [wireCode, encode]
theorem KindZero.rspNack (len : Byte) : KindZero.Statement (.rspNack len) := by
  intro code; simp [wireCode, encode]
theorem KindZero.rspIllegal (len : Byte) : KindZero.Statement (.rspIllegal len) := by
  intro code; simp [wireCode, encode]
theorem KindZero.rspData (len echo : Byte) (payload : Bytes) :
    KindZero.Statement (.rspData len echo payload) := by
  intro code; simp [wireCode, encode]

end Sys2Proof.Laws
end

