-- ==== Sys2Proof/Tests/Slice0.lean ====
section
/-! SUPPORT. The model's own tests. Expected values are the spec's (95_test_vectors.md, with the vector's
name in the test's docstring) or written out by hand from the encodings of 30_encoding.md. The second part
holds, for every obligation with hypotheses, a state and operands that meet them all. -/

namespace Sys2Proof.Tests

set_option Elab.async false

open Sys2Proof Sys2Proof.Machine

/-! ## WellFormed refuses ill-formed terms -/

theorem test_wf_refuses_empty_data_with_ack_echo : (Instr.rspData 0x06#8 0x00#8 []).wf = false := by
  decide
theorem test_wf_refuses_empty_data_with_nack_echo : (Instr.rspData 0x06#8 0xFF#8 []).wf = false := by
  decide
theorem test_wf_refuses_empty_data_with_illegal_echo :
    (Instr.rspData 0x06#8 0x30#8 []).wf = false := by decide
theorem test_wf_accepts_data_with_control_echo :
    (Instr.rspData 0x07#8 0x00#8 [0x14#8]).wf = true := by decide

/-! ## Decoding: a word for every constructor -/

theorem test_decode_reset : decode (.hop 0b00_0011_0000#10) = .ok .reset := by decide
theorem test_decode_getStatus : decode (.hop 0b00_0011_0001#10) = .ok .getStatus := by decide
theorem test_decode_setSecurity : decode (.hop 0b00_0011_0010#10) = .ok .setSecurity := by decide
theorem test_decode_poll : decode (.hop 0b00_0011_0011#10) = .ok .poll := by decide
theorem test_decode_enable : decode (.hop 0b00_0011_0100#10) = .ok .enable := by decide
theorem test_decode_stack : decode (.hop 0b00_0011_0101#10) = .ok .stack := by decide
theorem test_decode_return : decode (.hop 0b00_0011_0110#10) = .ok .returnBill := by decide
theorem test_decode_ident : decode (.hop 0b00_0011_0111#10) = .ok .ident := by decide
theorem test_decode_hold : decode (.hop 0b00_0011_1000#10) = .ok .hold := by decide
theorem test_decode_barcode : decode (.hop 0b00_0011_1010#10) = .ok .barcode := by decide
theorem test_decode_getBillTable : decode (.hop 0b00_0100_0001#10) = .ok .getBillTable := by decide
theorem test_decode_getCrc32 : decode (.hop 0b00_0101_0001#10) = .ok .getCrc32 := by decide
theorem test_decode_ack : decode (.hop 0b00_0000_0000#10) = .ok .ack := by decide
theorem test_decode_nack : decode (.hop 0b00_1111_1111#10) = .ok .nack := by decide
theorem test_decode_open : decode (.hop 0b01_0000_0000#10) = .ok .openLink := by decide
theorem test_decode_close : decode (.hop 0b10_0000_0000#10) = .ok .closeLink := by decide

/-- V-PRS. -/
theorem test_decode_rspAck :
    decode (.frame [0x02#8, 0x03#8, 0x06#8, 0x00#8, 0xC2#8, 0x82#8]) = .ok (.rspAck 0x06#8) := by
  decide +kernel
/-- V-PRS. -/
theorem test_decode_rspNack :
    decode (.frame [0x02#8, 0x03#8, 0x06#8, 0xFF#8, 0xBA#8, 0x8D#8]) = .ok (.rspNack 0x06#8) := by
  decide +kernel
/-- V-PRS. -/
theorem test_decode_rspIllegal :
    decode (.frame [0x02#8, 0x03#8, 0x06#8, 0x30#8, 0x41#8, 0xB3#8]) = .ok (.rspIllegal 0x06#8) := by
  decide +kernel
/-- V-PRS: length byte 0 is not checked. -/
theorem test_decode_rspData :
    decode (.frame [0x02#8, 0x03#8, 0x00#8, 0x33#8, 0x14#8, 0x2A#8, 0xF9#8]) =
      .ok (.rspData 0x00#8 0x33#8 [0x14#8]) := by decide +kernel
/-- R85: code 0x39 has no command, OPEN takes code 0 only, kind 3 is reserved. -/
theorem test_decode_reserved :
    decode (.hop 0b00_0011_1001#10) = .error (.reservedOperation 0b00_0011_1001#10) ∧
    decode (.hop 0b01_0000_0001#10) = .error (.reservedOperation 0b01_0000_0001#10) ∧
    decode (.hop 0b11_0000_0000#10) = .error (.reservedOperation 0b11_0000_0000#10) := by decide
/-- V-PRS: too short, the wrong address, a wrong trailer, a good trailer in 4 bytes. -/
theorem test_parse_failures :
    parseRsp [0x02#8] = .fail .frameFormatError ∧
    parseRsp [0x02#8, 0x03#8] = .fail .checksumMismatch ∧
    parseRsp [0x02#8, 0x03#8, 0x2B#8, 0x01#8] = .fail .frameFormatError ∧
    parseRsp [0x02#8, 0x04#8, 0x06#8, 0x00#8, 0xC2#8, 0x82#8] = .fail .frameFormatError ∧
    parseRsp [0x02#8, 0x03#8, 0x06#8, 0x00#8, 0xC2#8, 0x83#8] = .fail .checksumMismatch := by
  decide +kernel
/-- V-PRS: a 6-byte frame with another echo is data; a 7-byte frame with echo FF is data. -/
theorem test_parse_data :
    parseRsp [0x02#8, 0x03#8, 0x06#8, 0x33#8, 0xDA#8, 0x81#8] = .data [] ∧
    parseRsp [0x02#8, 0x03#8, 0x07#8, 0xFF#8, 0x14#8, 0x25#8, 0x16#8] = .data [0x14#8] := by
  decide +kernel
/-- Table words (R91): a request row, a masked row, and a response no request row has. -/
theorem test_table_words :
    decodeTableWord 32 0x02030633 = some .poll ∧ decodeTableWord 32 0x02030735 = some .stack ∧
    decodeTableWord 32 0x02030799 = some (.rspData 0x07#8 0x99#8 [0x00#8]) ∧
    decodeTableWord 16 0x100 = some .openLink ∧ decodeTableWord 32 0x03030633 = none := by
  decide +kernel

/-! ## The pure functions -/

/-- V-CRC. -/
theorem test_crc_vectors :
    crc16 [] = 0x0000#16 ∧ crc16 [0x01#8] = 0x1189#16 ∧ crc16 [0x01#8, 0x00#8] = 0x19D8#16 ∧
    crc16 [0x80#8] = 0x8408#16 ∧ crc16 [0xFF#8, 0xFF#8] = 0xF0B8#16 ∧
    crc16 [0x31#8, 0x32#8, 0x33#8, 0x34#8, 0x35#8, 0x36#8, 0x37#8, 0x38#8, 0x39#8] = 0x2189#16 := by
  decide +kernel
/-- V-CRC, wire order of CRC16(02 03 06 33): DA 81. -/
theorem test_crc_wire_order :
    crcTrailer [0x02#8, 0x03#8, 0x06#8, 0x33#8] = [0xDA#8, 0x81#8] := by decide +kernel
/-- V-BS. -/
theorem test_bsenc :
    bsenc [] = .ok [0x00#8, 0x00#8, 0x00#8] ∧
    bsenc [3#8, 10#8, 17#8] = .ok [0x02#8, 0x04#8, 0x08#8] ∧
    bsenc [23#8, 23#8, 0#8] = .ok [0x80#8, 0x00#8, 0x01#8] ∧
    bsenc [24#8] = .error .invalidIndex ∧ bsenc [0#8, 255#8] = .error .invalidIndex := by
  decide +kernel
/-- V-BS. -/
theorem test_bsdec :
    bsdec 0xAA#8 0x80#8 0x01#8 = 0xAA8001#24 ∧ bsdecn [] = 0x000000#24 ∧
    bsdecn [0x80#8] = 0x800000#24 ∧ bsdecn [0x80#8, 0x01#8] = 0x800100#24 ∧
    bsdecn [0x00#8, 0x00#8, 0x07#8] = 0x000007#24 := by decide +kernel
/-- V-EXP. -/
theorem test_expdec :
    (expDec 0x7F#8).toInt = 127 ∧ (expDec 0x80#8).toInt = 128 ∧ (expDec 0x81#8).toInt = -1 ∧
    (expDec 0x82#8).toInt = -2 ∧ (expDec 0xFF#8).toInt = -127 := by decide
/-- V-CMP: the overshoot, the zero length byte, and 300 against 0x2C. -/
theorem test_complete :
    frameComplete 5 0x00#8 = false ∧ frameComplete 6 0x06#8 = true ∧
    frameComplete 6 0x00#8 = true ∧ frameComplete 7 0x06#8 = false ∧
    frameComplete 300 0x2C#8 = false ∧ frameComplete 300 0x00#8 = true := by decide

/-! ## The machine, one step at a time -/

/-- One field of the next state. -/
def fld {α : Type} (f : State → α) (r : Result) : Option α :=
  match r with
  | .next t => some (f t)
  | .fault _ => none
  | .refused _ => none

/-- MAX_RETRY = 3, READ_CHUNK_MAX = 255, identification offsets 0, 15, 27 (95_test_vectors.md). -/
def cfg : Config := ⟨2, 254, 0, 15, 27⟩

/-- An idle block with an open link and operands in its registers. -/
def idle (raw setA setB : Bytes) : State :=
  { State.reset with
    cfg := cfg
    linkOpen := true
    opRaw := memWriteBytes [] 0 raw
    opRawLen := some (BitVec.ofNat 8 raw.length)
    opSetA := some setA
    opSetB := some setB }

/-- The request frame ACCEPT leaves in TXBUF. -/
def request (s : State) : Option Bytes := memReadBytes s.tx 0 s.txLen.toNat

/-- A POLL in progress: `rsp` in RXBUF, `n` attempts made. -/
def busy (p : Phase) (rsp : Bytes) (n : Nat) (ctrl : Option Bool) (w : Wire) : State :=
  { idle [] [] [] with
    phase := p
    curCode := some 0x33#8
    tx := memWriteBytes [] 0 (buildReq 0x33#8 [])
    txLen := 0x06#8
    rx := memWriteBytes [] 0 rsp
    rxLen := rsp.length
    attempt := n
    rspCtrl := ctrl
    wire := w }

/-- A wire with answers still to come. -/
def wire (win : Bytes) (writes : List WriteAnswer) (reads : List ReadAnswer) : Wire :=
  { Wire.untouched with win := win, writes := writes, reads := reads }

/-- DECODE of a substantive response. -/
def atDecode (rsp : Bytes) : State := busy .decode rsp 1 (some false) Wire.untouched

/-- V-BLD. -/
theorem test_reset_request :
    fld request (exec .reset (idle [0xAA#8] [] [])) =
      some (some [0x02#8, 0x03#8, 0x07#8, 0x30#8, 0xAA#8, 0xB2#8, 0x03#8]) := by decide +kernel
/-- V-BLD. -/
theorem test_getStatus_request :
    fld request (exec .getStatus (idle [0x01#8] [] [])) =
      some (some [0x02#8, 0x03#8, 0x06#8, 0x31#8, 0xC8#8, 0xA2#8]) := by decide +kernel
/-- V-BLD: repeats and order do not matter. -/
theorem test_setSecurity_request :
    fld request (exec .setSecurity (idle [] [5#8, 5#8, 23#8, 0#8] [])) =
      some (some [0x02#8, 0x03#8, 0x09#8, 0x32#8, 0x80#8, 0x00#8, 0x21#8, 0x41#8, 0x23#8]) := by
  decide +kernel
/-- V-BLD: OP_SETA's mask stands before OP_SETB's. -/
theorem test_enable_request :
    fld request (exec .enable (idle [] [2#8, 4#8, 5#8, 6#8] [2#8, 4#8])) =
      some (some [0x02#8, 0x03#8, 0x0C#8, 0x34#8, 0x00#8, 0x00#8, 0x74#8, 0x00#8, 0x00#8, 0x14#8,
        0x1B#8, 0x72#8]) := by decide +kernel
/-- T19b: the second list fails the command. -/
theorem test_enable_second_list :
    fld (fun t => t.resErr) (exec .enable (idle [] [0#8] [255#8])) = some (some 7#4) := by
  decide +kernel
/-- V-BLD. -/
theorem test_poll_request :
    fld request (exec .poll (idle [] [] [])) =
      some (some [0x02#8, 0x03#8, 0x06#8, 0x33#8, 0xDA#8, 0x81#8]) := by decide +kernel
/-- V-BLD. -/
theorem test_stack_request :
    fld request (exec .stack (idle [] [] [])) =
      some (some [0x02#8, 0x03#8, 0x06#8, 0x35#8, 0xEC#8, 0xE4#8]) := by decide +kernel
/-- V-BLD. -/
theorem test_return_request :
    fld request (exec .returnBill (idle [] [] [])) =
      some (some [0x02#8, 0x03#8, 0x06#8, 0x36#8, 0x77#8, 0xD6#8]) := by decide +kernel
/-- V-BLD. -/
theorem test_ident_request :
    fld request (exec .ident (idle [] [] [])) =
      some (some [0x02#8, 0x03#8, 0x06#8, 0x37#8, 0xFE#8, 0xC7#8]) := by decide +kernel
/-- V-BLD. -/
theorem test_hold_request :
    fld request (exec .hold (idle [0x00#8] [] [])) =
      some (some [0x02#8, 0x03#8, 0x07#8, 0x38#8, 0x00#8, 0x22#8, 0xC7#8]) := by decide +kernel
/-- V-BLD. -/
theorem test_barcode_request :
    fld request (exec .barcode (idle [0x01#8, 0x02#8] [] [])) =
      some (some [0x02#8, 0x03#8, 0x08#8, 0x3A#8, 0x01#8, 0x02#8, 0x5C#8, 0x3F#8]) := by
  decide +kernel
/-- V-BLD. -/
theorem test_getBillTable_request :
    fld request (exec .getBillTable (idle [] [] [])) =
      some (some [0x02#8, 0x03#8, 0x06#8, 0x41#8, 0x4F#8, 0xD1#8]) := by decide +kernel
/-- V-BLD. -/
theorem test_getCrc32_request :
    fld request (exec .getCrc32 (idle [] [] [])) =
      some (some [0x02#8, 0x03#8, 0x06#8, 0x51#8, 0xCE#8, 0xC1#8]) := by decide +kernel
/-- V-BLD. -/
theorem test_ack_request :
    fld request (exec .ack (idle [] [] [])) =
      some (some [0x02#8, 0x03#8, 0x06#8, 0x00#8, 0xC2#8, 0x82#8]) := by decide +kernel
/-- V-BLD. -/
theorem test_nack_request :
    fld request (exec .nack (idle [] [] [])) =
      some (some [0x02#8, 0x03#8, 0x06#8, 0xFF#8, 0xBA#8, 0x8D#8]) := by decide +kernel
/-- T32: the link is checked before the operands. -/
theorem test_closed_link_before_operands :
    fld (fun t => (t.resErr, t.phase, t.wire.calls))
      (exec .setSecurity { idle [] [99#8] [] with linkOpen := false }) =
      some (some 8#4, .idle, []) := by decide +kernel
/-- V-LINK. -/
theorem test_open :
    fld (fun t => (t.linkOpen, t.resErr))
      (exec .openLink { State.reset with wire := { Wire.untouched with opens := [.ok] } }) =
      some (true, some 0#4) := by decide
/-- V-LINK. -/
theorem test_open_fails :
    fld (fun t => (t.linkOpen, t.resErr))
      (exec .openLink { State.reset with wire := { Wire.untouched with opens := [.err] } }) =
      some (false, some 1#4) := by decide
/-- V-LINK. -/
theorem test_close :
    fld (fun t => (t.linkOpen, t.resErr, t.wire.calls)) (exec .closeLink (idle [] [] [])) =
      some (false, some 0#4, [.tclose]) := by decide
/-- T24: the third payload byte is ignored. -/
theorem test_poll_result :
    fld (fun t => (t.res.status, t.res.param, t.resErr, t.phase)) (exec .poll (atDecode
      [0x02#8, 0x03#8, 0x09#8, 0x33#8, 0x1C#8, 0x60#8, 0x99#8, 0xB6#8, 0x4F#8])) =
      some (some 0x1C#8, some 0x60#8, some 0#4, .idle) := by decide +kernel
/-- V-GS, second row. -/
theorem test_getStatus_result :
    fld (fun t => (t.res.setA, t.res.setB)) (exec .getStatus (atDecode
      [0x02#8, 0x03#8, 0x0D#8, 0x31#8, 0x00#8, 0x00#8, 0x07#8, 0xAA#8, 0x80#8, 0x01#8, 0x01#8, 0x5C#8,
        0xF4#8])) = some (some 0x000007#24, some 0x800101#24) := by decide +kernel
/-- T20. -/
theorem test_getCrc32_result :
    fld (fun t => (t.res.raw, t.res.rawLen)) (exec .getCrc32 (atDecode
      [0x02#8, 0x03#8, 0x0A#8, 0x51#8, 0xDE#8, 0xAD#8, 0xBE#8, 0xEF#8, 0x3C#8, 0xED#8])) =
      some (some [0xDE#8, 0xAD#8, 0xBE#8, 0xEF#8], some 4) := by decide +kernel
/-- T22. -/
theorem test_barcode_result :
    fld (fun t => (t.res.raw, t.res.rawLen)) (exec .barcode (atDecode
      [0x02#8, 0x03#8, 0x09#8, 0x3A#8, 0x41#8, 0x42#8, 0x43#8, 0x1D#8, 0xA3#8])) =
      some (some [0x41#8, 0x42#8, 0x43#8], some 3) := by decide +kernel
/-- V-BT, entries 0, 6 and 8; the entries after them zero. -/
theorem test_getBillTable_result :
    fld (fun t => t.res.bill.map (fun b => (b[0]?, b[6]?, b[8]?))) (exec .getBillTable (atDecode
      ([0x02#8, 0x03#8, 0x7E#8, 0x41#8, 0x01#8, 0x55#8, 0x53#8, 0x41#8, 0x00#8] ++
        List.replicate 25 0x00#8 ++ [0x05#8, 0x45#8, 0x55#8, 0x52#8, 0x82#8] ++
        List.replicate 5 0x00#8 ++ [0xFF#8, 0x58#8, 0x58#8, 0x58#8, 0x80#8] ++
        List.replicate 77 0x00#8))) =
      some (some (some ⟨0x01#8, 0#9, 0x55#8, 0x53#8, 0x41#8⟩,
        some ⟨0x05#8, -2#9, 0x45#8, 0x55#8, 0x52#8⟩,
        some ⟨0xFF#8, 128#9, 0x58#8, 0x58#8, 0x58#8⟩)) := by decide +kernel
/-- V-ID: payload byte k is 0x40 + k. -/
theorem test_ident_result :
    fld (fun t => (t.res.serial, t.res.asset)) (exec .ident (atDecode
      ([0x02#8, 0x03#8, 0x28#8, 0x37#8] ++ (List.range 34).map (fun k => BitVec.ofNat 8 (0x40 + k)) ++
        [0xE1#8, 0x8F#8]))) =
      some (some [0x4F#8, 0x50#8, 0x51#8, 0x52#8, 0x53#8, 0x54#8, 0x55#8, 0x56#8, 0x57#8, 0x58#8,
        0x59#8], some [0x5B#8, 0x5C#8, 0x5D#8, 0x5E#8, 0x5F#8, 0x60#8]) := by decide +kernel
/-- T17: a bare ACK ends SETSECURITY with success and no result. -/
theorem test_setSecurity_result :
    fld (fun t => (t.resErr, t.resValid, t.res)) (exec .setSecurity
      (busy .decode [0x02#8, 0x03#8, 0x06#8, 0x00#8, 0xC2#8, 0x82#8] 1 (some true) Wire.untouched)) =
      some (some 0#4, true, Results.noValue) := by decide +kernel
/-- T13: an empty payload is no status. -/
theorem test_poll_empty_payload :
    fld (fun t => (t.resErr, t.res.status)) (exec .poll
      (busy .decode [0x02#8, 0x03#8, 0x06#8, 0x00#8, 0xC2#8, 0x82#8] 1 (some true) Wire.untouched)) =
      some (some 2#4, none) := by decide +kernel
/-- R147: the two successes of PARSE. -/
theorem test_rspAck : fld (fun t => (t.rspCtrl, t.phase))
    (exec (.rspAck 0x06#8) (busy .parse [] 1 none Wire.untouched)) =
      some (some true, .decode) := by decide
theorem test_rspData : fld (fun t => (t.rspCtrl, t.phase))
    (exec (.rspData 0x07#8 0x33#8 [0x14#8]) (busy .parse [] 1 none Wire.untouched)) =
      some (some false, .hsack) := by decide
/-- T7, T8: the two failures. -/
theorem test_rspNack : fld (fun t => (t.resErr, t.phase, t.wire.calls))
    (exec (.rspNack 0x06#8) (busy .parse [] 1 none Wire.untouched)) =
      some (some 5#4, .idle, []) := by decide
theorem test_rspIllegal : fld (fun t => (t.resErr, t.phase, t.wire.calls))
    (exec (.rspIllegal 0x06#8) (busy .parse [] 1 none Wire.untouched)) =
      some (some 6#4, .idle, []) := by decide
/-- T1, T6: the step after ACCEPT writes the request, all of it or a first part. -/
theorem test_send :
    fld (fun t => (t.wire.wout, t.phase)) (step (busy .send [] 0 none (wire [] [.ok] []))) =
      some ([0x02#8, 0x03#8, 0x06#8, 0x33#8, 0xDA#8, 0x81#8], .recv) ∧
    fld (fun t => (t.wire.wout, t.phase, t.resErr))
      (step (busy .send [] 0 none (wire [] [.err 2] []))) =
      some ([0x02#8, 0x03#8], .idle, some 1#4) := by decide +kernel
/-- T1: the read that completes the frame; T3: an empty read counts as an attempt. -/
theorem test_recv :
    fld (fun t => (t.phase, t.rxLen, t.attempt)) (step (busy .recv [] 0 none
      (wire [0x02#8, 0x03#8, 0x07#8, 0x33#8, 0x14#8, 0x2F#8, 0x75#8] [] [.bytes [] 255]))) =
      some (.parse, 7, 1) ∧
    fld (fun t => (t.phase, t.rxLen, t.attempt))
      (step (busy .recv [] 0 none (wire [] [] [.bytes [] 0]))) = some (.recv, 0, 1) := by
  decide +kernel
/-- T12: the handshake fails, the payload is not delivered. -/
theorem test_handshake_fails :
    fld (fun t => (t.wire.wout, t.phase, t.resErr)) (step (busy .hsack
      [0x02#8, 0x03#8, 0x07#8, 0x33#8, 0x14#8, 0x2F#8, 0x75#8] 1 (some false)
      (wire [] [.err 3] []))) = some ([0x02#8, 0x03#8, 0x06#8], .idle, some 1#4) := by decide +kernel
/-- T15: the overshoot never completes; T27: a zero length byte cuts the frame at six bytes. -/
theorem test_transactions :
    (xact cfg (buildReq 0x33#8 []) (fun p => decodePoll cfg p Results.noValue)
      (wire [0x02#8, 0x03#8, 0x07#8, 0x33#8, 0x14#8, 0x2F#8, 0x75#8, 0x02#8] [.ok]
        [.bytes [] 4, .bytes [] 4, .bytes [] 0])).1 = .error .retryExhausted ∧
    (xact cfg (buildReq 0x33#8 []) (fun p => decodePoll cfg p Results.noValue)
      (wire [0x02#8, 0x03#8, 0x00#8, 0x33#8, 0x14#8, 0x2A#8, 0xF9#8] [.ok] [.bytes [] 6])).1 =
      .error .checksumMismatch := by decide +kernel
/-- R17: a result register the operation did not write is a fault to read, never zero. -/
theorem test_read_of_no_value :
    hostRead .resStatus { State.reset with resValid := true, resErr := some 0#4 } =
      .fault (.noValue .resStatus) := rfl
/-- R243: an operation word that nothing wrote is a fault to run. -/
theorem test_unwritten_operation_faults :
    step { State.reset with request := true } = .fault (.noValue .hop) := rfl
/-- The instruction of a table word is run by the next step after reset: the link is closed. -/
theorem test_withFetchWord :
    fld (fun t => (t.resErr, t.request)) (step (State.reset.withFetchWord 32 0x02030633)) =
      some (some 8#4, false) ∧
    fld (fun t => (t.rspCtrl, t.phase)) (step (State.reset.withFetchWord 32 0x02030799)) =
      some (some false, .hsack) := by decide +kernel

/-! ## A state and operands for the hypotheses of every obligation -/

/-- The whole of V-T's POLL response. -/
def pollResponse : Bytes := [0x02#8, 0x03#8, 0x07#8, 0x33#8, 0x14#8, 0x2F#8, 0x75#8]

theorem witness_DecodeOfEncode :
    (Instr.rspData 0x06#8 0x31#8 []).WellFormed ∧ Instr.nack.WellFormed ∧
    (Instr.rspData 0x07#8 0x30#8 [0x14#8]).WellFormed := by decide

theorem witness_EncodeOfDecode :
    decode (.hop 0b00_1111_1111#10) = .ok .nack ∧
    decode (.frame pollResponse) = .ok (.rspData 0x07#8 0x33#8 [0x14#8]) := by decide +kernel

theorem witness_RequestHeaderMatchesItsRowOnly :
    (wireCode .barcode = some 0x3A#8 ∧ formatAdmits .barcode 249 = true) ∧
    (wireCode .reset = some 0x30#8 ∧ formatAdmits .reset 0 = true) ∧
    (wireCode .setSecurity = some 0x32#8 ∧ formatAdmits .setSecurity 3 = true) ∧
    (wireCode .enable = some 0x34#8 ∧ formatAdmits .enable 6 = true) ∧
    (wireCode .poll = some 0x33#8 ∧ formatAdmits .poll 0 = true) := by decide

/-- A word presented to an idle block. -/
def presented (w : BitVec 10) : State := { idle [] [] [] with hop := some w, request := true }

theorem witness_ReservedWordIsRefused :
    (presented 0x139#10).schedule = [] ∧ (presented 0x139#10).phase = .idle ∧
    (presented 0x139#10).request = true ∧ (presented 0x139#10).hop = some 0x139#10 ∧
    ∀ i : Instr, encode i ≠ .hop 0x139#10 := by
  refine ⟨rfl, rfl, rfl, rfl, fun i => ?_⟩
  cases i <;> simp [encode]

theorem witness_ChecksumLinear : ([0x01#8, 0xFF#8] : Bytes).length = [0x02#8, 0x80#8].length := rfl

theorem witness_ChecksumResidue : crc16 ([0x02#8, 0x03#8, 0x06#8, 0x33#8] ++ [0xDA#8, 0x81#8]) = 0 := by
  decide +kernel

theorem witness_BitsetEncodePlacesEachIndex :
    (∃ t ∈ ([0#8, 24#8] : Bytes), 23 < t.toNat) ∧ ∀ t ∈ ([0#8, 23#8] : Bytes), t.toNat ≤ 23 := by
  decide

theorem witness_BitsetInverse : bsenc [23#8, 0#8] = .ok [0x80#8, 0x00#8, 0x01#8] := by decide +kernel

theorem witness_BuiltRequestLengthLaw :
    (List.replicate 249 0xAA#8).length ≤ 249 ∧ ([] : Bytes).length ≤ 249 := by decide +kernel

theorem witness_ParserChecksInOrder :
    ([0x02#8, 0x04#8, 0x06#8, 0x00#8, 0xC2#8, 0x82#8] : Bytes).take 2 ≠ [0x02#8, 0x03#8] ∧
    ([0x02#8, 0x03#8] : Bytes).take 2 = [0x02#8, 0x03#8] ∧
    ([0x02#8, 0x03#8] : Bytes).drop 0 ≠ crcTrailer [] := by decide +kernel

theorem witness_RawCommandsAccept :
    Instr.barcode ∈ rawCommands ∧ wireCode .barcode = some 0x3A#8 ∧
    (idle [0x01#8, 0x02#8] [] []).phase = .idle ∧ (idle [0x01#8, 0x02#8] [] []).linkOpen = true ∧
    (idle [0x01#8, 0x02#8] [] []).opRawLen = some 2#8 ∧ (2#8).toNat ≤ 249 ∧
    memReadBytes (idle [0x01#8, 0x02#8] [] []).opRaw 0 (2#8).toNat = some [0x01#8, 0x02#8] := by
  decide

theorem witness_PlainCommandsAccept :
    Instr.ident ∈ plainCommands ∧ wireCode .ident = some 0x37#8 ∧ (idle [] [] []).phase = .idle ∧
    (idle [] [] []).linkOpen = true := by decide

theorem witness_MaskCommandsAccept :
    (idle [] [0#8, 23#8] [8#8]).phase = .idle ∧ (idle [] [0#8, 23#8] [8#8]).linkOpen = true ∧
    (idle [] [0#8, 23#8] [8#8]).opSetA = some [0#8, 23#8] ∧
    bsenc [0#8, 23#8] = .ok [0x80#8, 0x00#8, 0x01#8] ∧
    (idle [] [0#8, 23#8] [8#8]).opSetB = some [8#8] ∧ bsenc [8#8] = .ok [0x00#8, 0x01#8, 0x00#8] := by
  decide +kernel

theorem witness_IndexAbove23IsInvalidIndex :
    (idle [] [24#8] []).phase = .idle ∧ (idle [] [24#8] []).linkOpen = true ∧
    (idle [] [24#8] []).opSetA = some [24#8] ∧ (∃ t ∈ ([24#8] : Bytes), 23 < t.toNat) ∧
    (idle [] [23#8] [255#8]).opSetA = some [23#8] ∧ (∀ t ∈ ([23#8] : Bytes), t.toNat ≤ 23) ∧
    (idle [] [23#8] [255#8]).opSetB = some [255#8] ∧ ∃ t ∈ ([255#8] : Bytes), 23 < t.toNat := by
  decide

theorem witness_ClosedLinkFailsEveryCommand :
    Instr.poll ∈ wireCommands ∧ State.reset.phase = .idle ∧ State.reset.linkOpen = false := by decide

/-- A closed link whose next open is answered `a`. -/
def closedLink (a : OpenAnswer) : State :=
  { State.reset with wire := { Wire.untouched with opens := [a] } }

theorem witness_OpenLinkAsksTheTransport :
    ((closedLink .ok).phase = .idle ∧ (closedLink .ok).linkOpen = false ∧
      nextOpen (closedLink .ok).wire = .ok) ∧
    ((closedLink .err).phase = .idle ∧ (closedLink .err).linkOpen = false ∧
      nextOpen (closedLink .err).wire = .err) ∧
    (idle [] [] []).phase = .idle ∧ (idle [] [] []).linkOpen = true := by decide

theorem witness_CloseLinkReleasesTheTransport :
    (idle [] [] []).phase = .idle ∧ (idle [] [] []).linkOpen = true ∧ State.reset.phase = .idle ∧
    State.reset.linkOpen = false := by decide

theorem witness_LinkOperationsFrame :
    (∃ t, exec .closeLink (idle [] [] []) = .next t) ∧
    (busy .recv [] 0 none Wire.untouched).phase ≠ .idle ∧
    exec .openLink (busy .recv [] 0 none Wire.untouched) =
      .next (busy .recv [] 0 none Wire.untouched) := ⟨⟨_, rfl⟩, by decide, rfl⟩

theorem witness_SendWritesTheRequest :
    Instr.poll ∈ wireCommands ∧ (busy .send [] 0 none (wire [] [.ok] [])).phase = .send ∧
    memReadBytes (busy .send [] 0 none (wire [] [.ok] [])).tx 0
      (busy .send [] 0 none (wire [] [.ok] [])).txLen.toNat =
        some [0x02#8, 0x03#8, 0x06#8, 0x33#8, 0xDA#8, 0x81#8] ∧
    nextWrite (wire [] [.ok] []) = .ok ∧ nextWrite (wire [] [.err 0] []) = .err 0 := by
  decide +kernel

theorem witness_RetryLimitMakesNoRead :
    Instr.poll ∈ wireCommands ∧ (busy .recv [] 3 none Wire.untouched).phase = .recv ∧
    (busy .recv [] 3 none Wire.untouched).attempt =
      (busy .recv [] 3 none Wire.untouched).cfg.maxRetry := by decide

theorem witness_ValidResponseIsClassified :
    (busy .parse pollResponse 1 none Wire.untouched).phase = .parse := rfl

theorem witness_ControlReplyFails :
    (busy .parse pollResponse 1 none Wire.untouched).phase = .parse := rfl

theorem witness_ResponseClassFrame :
    Instr.rspAck 0x06#8 ∉ wireCommands ∧ Instr.rspAck 0x06#8 ≠ .openLink ∧
    Instr.rspAck 0x06#8 ≠ .closeLink ∧
    (∃ t, exec (.rspAck 0x06#8) (busy .parse [] 1 none Wire.untouched) = .next t) ∧
    exec (.rspAck 0x06#8) State.reset = .next State.reset ∧ State.reset.phase ≠ .parse :=
  ⟨by decide, by decide, by decide, ⟨_, rfl⟩, rfl, by decide⟩

theorem witness_HandshakeSendsTheAckFrame :
    Instr.poll ∈ wireCommands ∧
    (busy .hsack pollResponse 1 (some false) (wire [] [.ok] [])).phase = .hsack ∧
    nextWrite (wire [] [.ok] []) = .ok ∧ nextWrite (wire [] [.err 6] []) = .err 6 := by decide

/-- A POLL at DECODE with `rsp` in RXBUF, and the payload of it. -/
theorem payload_atDecode {rsp p : Bytes}
    (h : memReadBytes (atDecode rsp).rx 4 ((atDecode rsp).rxLen - 6) = some p) :
    (atDecode rsp).phase = .decode ∧ PayloadIs (atDecode rsp) p := ⟨rfl, .inr ⟨rfl, h⟩⟩

/-- The same after a bare ACK. -/
def atDecodeAck : State :=
  busy .decode [0x02#8, 0x03#8, 0x06#8, 0x00#8, 0xC2#8, 0x82#8] 1 (some true) Wire.untouched

theorem witness_DiscardCommandsComplete :
    (Instr.stack ∈ discardCommands ∧ atDecodeAck.phase = .decode ∧ PayloadIs atDecodeAck []) ∧
    (atDecode pollResponse).phase = .decode ∧ PayloadIs (atDecode pollResponse) [0x14#8] :=
  ⟨⟨by decide, rfl, .inl ⟨rfl, rfl⟩⟩, payload_atDecode (by decide)⟩

theorem witness_RawResponseIsDelivered :
    (atDecode pollResponse).phase = .decode ∧ PayloadIs (atDecode pollResponse) [0x14#8] :=
  payload_atDecode (by decide)

theorem witness_PollDeliversStatus :
    (atDecode pollResponse).phase = .decode ∧ PayloadIs (atDecode pollResponse) (0x14#8 :: []) :=
  payload_atDecode (by decide)

/-- A sealed response with the payload `p`. -/
def response (p : Bytes) : Bytes := sealFrame (BitVec.ofNat 8 (6 + p.length)) 0x33#8 p

theorem witness_StatusDeliversTwoSets :
    (atDecode (response [0x00#8, 0x00#8, 0x07#8])).phase = .decode ∧
    PayloadIs (atDecode (response [0x00#8, 0x00#8, 0x07#8])) [0x00#8, 0x00#8, 0x07#8] ∧
    3 ≤ ([0x00#8, 0x00#8, 0x07#8] : Bytes).length :=
  ⟨rfl, .inr ⟨rfl, by decide +kernel⟩, by decide⟩

theorem witness_BillTableDeliversEveryEntry :
    (atDecode (response (List.replicate 120 0x05#8))).phase = .decode ∧
    PayloadIs (atDecode (response (List.replicate 120 0x05#8))) (List.replicate 120 0x05#8) ∧
    120 ≤ (List.replicate 120 0x05#8).length :=
  ⟨rfl, .inr ⟨rfl, by decide +kernel⟩, by decide⟩

theorem witness_IdentDeliversThreeSlices :
    (atDecode (response (List.replicate 33 0x41#8))).phase = .decode ∧
    PayloadIs (atDecode (response (List.replicate 33 0x41#8))) (List.replicate 33 0x41#8) ∧
    (atDecode (response (List.replicate 33 0x41#8))).cfg.idMinLen ≤
      (List.replicate 33 0x41#8).length :=
  ⟨rfl, .inr ⟨rfl, by decide +kernel⟩, by decide⟩

theorem witness_ShortPayloadIsFrameFormatError :
    (atDecodeAck.phase = .decode ∧ PayloadIs atDecodeAck [] ∧ ([] : Bytes).length < 1) ∧
    ((atDecode (response [0x00#8, 0x00#8])).phase = .decode ∧
      PayloadIs (atDecode (response [0x00#8, 0x00#8])) [0x00#8, 0x00#8] ∧
      ([0x00#8, 0x00#8] : Bytes).length < 3) ∧
    (PayloadIs (atDecode (response (List.replicate 119 0x05#8))) (List.replicate 119 0x05#8) ∧
      (List.replicate 119 0x05#8).length < 120) ∧
    (PayloadIs (atDecode (response (List.replicate 32 0x41#8))) (List.replicate 32 0x41#8) ∧
      (List.replicate 32 0x41#8).length <
        (atDecode (response (List.replicate 32 0x41#8))).cfg.idMinLen) :=
  ⟨⟨rfl, .inl ⟨rfl, rfl⟩, by decide⟩, ⟨rfl, .inr ⟨rfl, by decide +kernel⟩, by decide⟩,
    ⟨.inr ⟨rfl, by decide +kernel⟩, by decide⟩, ⟨.inr ⟨rfl, by decide +kernel⟩, by decide⟩⟩

theorem witness_WireCommandRegisterFrame :
    Instr.poll ∈ wireCommands ∧ (∃ t, exec .poll (idle [] [] []) = .next t) ∧
    ∃ t, exec .poll atDecodeAck = .next t := ⟨by decide, ⟨_, rfl⟩, ⟨_, rfl⟩⟩

theorem witness_WireCommandBufferFrame :
    Instr.poll ∈ wireCommands ∧ (∃ t, exec .poll (idle [] [] []) = .next t) ∧
    (idle [] [] []).phase = .idle ∧ wireCode .poll = some 0x33#8 ∧
    encodeHook .poll (idle [] [] []) = .value [] ∧ (buildReq 0x33#8 []).length ≤ 6 ∧
    (∀ p, encodeHook .setSecurity (idle [] [24#8] []) ≠ .value p) ∧
    ∃ t, exec .setSecurity (idle [] [24#8] []) = .next t :=
  ⟨by decide, ⟨_, rfl⟩, rfl, rfl, rfl, by decide, (fun _ h => by cases h), ⟨_, rfl⟩⟩

theorem witness_StepRunsTheDecodedInstruction :
    ((presented 0x033#10).schedule = [] ∧ (presented 0x033#10).phase = .idle ∧
      (presented 0x033#10).request = true ∧ (presented 0x033#10).hop = some 0x033#10 ∧
      decode (.hop 0x033#10) = .ok .poll) ∧
    (memReadBytes (busy .parse pollResponse 1 none Wire.untouched).rx 0
        (busy .parse pollResponse 1 none Wire.untouched).rxLen = some pollResponse ∧
      decode (.frame pollResponse) = .ok (.rspData 0x07#8 0x33#8 [0x14#8])) ∧
    (wireCode .poll = some 0x33#8 ∧ atDecodeAck.curCode = some 0x33#8 ∧ atDecodeAck.phase ≠ .idle) ∧
    ({ idle [] [] [] with schedule := [.block] } : State).schedule = .block :: [] := by
  decide +kernel

theorem witness_BadResponseFails :
    (busy .parse [0x03#8, 0x03#8] 1 none Wire.untouched).schedule = [] ∧
    (busy .parse [0x03#8, 0x03#8] 1 none Wire.untouched).phase = .parse ∧
    memReadBytes (busy .parse [0x03#8, 0x03#8] 1 none Wire.untouched).rx 0 2 =
      some [0x03#8, 0x03#8] ∧
    ([0x03#8, 0x03#8] : Bytes).take 2 ≠ [0x02#8, 0x03#8] ∧
    memReadBytes (busy .parse [0x02#8, 0x03#8, 0x12#8] 1 none Wire.untouched).rx 0 3 =
      some [0x02#8, 0x03#8, 0x12#8] ∧
    ([0x02#8, 0x03#8, 0x12#8] : Bytes).take 2 = [0x02#8, 0x03#8] ∧
    ([0x02#8, 0x03#8, 0x12#8] : Bytes).drop 1 ≠ crcTrailer [0x02#8] := by decide +kernel

theorem witness_EchoCollisionIgnoresTheCommand :
    (busy .parse (sealFrame 0x06#8 0x30#8 []) 1 none Wire.untouched).schedule = [] ∧
    (busy .parse (sealFrame 0x06#8 0x30#8 []) 1 none Wire.untouched).phase = .parse ∧
    (∀ e ∈ ([0x30#8, 0xFF#8, 0x00#8] : Bytes),
      memReadBytes (busy .parse (sealFrame 0x06#8 e []) 1 none Wire.untouched).rx 0
        (busy .parse (sealFrame 0x06#8 e []) 1 none Wire.untouched).rxLen =
          some (sealFrame 0x06#8 e [])) := by decide +kernel

/-- A POLL in progress meets the invariant, whatever was accumulated, as long as the accumulator is
within its attempts and, past RECV, complete. -/
theorem busy_inv (p : Phase) (rsp : Bytes) (n : Nat) (ctrl : Option Bool) (w : Wire)
    (hn : n ≤ 3) (hr : rsp.length ≤ n * 255)
    (hc : p = .parse ∨ p = .hsack ∨ p = .decode → rxComplete (busy p rsp n ctrl w) = some true)
    (hk : (p = .hsack → ctrl = some false) ∧ (p = .decode → ctrl.isSome = true)) :
    StateInv (busy p rsp n ctrl w) where
  txForm := memWf_memWriteBytes _ _ _ rfl
  txSpace := memBelow_memWriteBytes _ _ _ _ rfl (by decide)
  rxForm := memWf_memWriteBytes _ _ _ rfl
  opRawForm := rfl
  opRawSpace := rfl
  rxHeld a := by
    show (memRead (memWriteBytes [] 0 rsp) a).isSome = true ↔ a < rsp.length
    rw [memRead_memWriteBytes]
    split
    · next h => simp
    · next h => simp; omega
  attempts := hn
  rxBound := hr
  opRawLenMax k h := by injection h with h; subst h; decide
  opSetAMax l h := by injection h with h; subst h; decide
  opSetBMax l h := by injection h with h; subst h; decide
  errRange c h := by cases h
  errWritten h := by cases h
  resultsEmpty _ := rfl
  resultsSized := noValue_sized _
  busy _ := ⟨rfl, rfl, .poll, 0x33#8, [], rfl, rfl, by decide, rfl,
    memReadBytes_memWriteBytes [] 0 (buildReq 0x33#8 [])⟩
  completed := hc
  classified := hk

/-- The presented POLL on an open link meets the invariant. -/
theorem presented_inv (w : BitVec 10) : StateInv (presented w) where
  txForm := rfl
  txSpace := rfl
  rxForm := rfl
  opRawForm := rfl
  opRawSpace := rfl
  rxHeld a := by simp [presented, idle, State.reset]
  attempts := Nat.zero_le _
  rxBound := Nat.zero_le _
  opRawLenMax k h := by injection h with h; subst h; decide
  opSetAMax l h := by injection h with h; subst h; decide
  opSetBMax l h := by injection h with h; subst h; decide
  errRange c h := by cases h
  errWritten h := by cases h
  resultsEmpty _ := rfl
  resultsSized := noValue_sized _
  busy h := absurd rfl h
  completed h := by rcases h with h | h | h <;> cases h
  classified := ⟨(fun h => by cases h), (fun h => by cases h)⟩

theorem witness_ReceiveAppendsOneChunk :
    StateInv (busy .recv [0x02#8] 2 none (wire [0x03#8] [] [.bytes [] 1])) ∧
    Instr.poll ∈ wireCommands ∧
    (busy .recv [0x02#8] 2 none (wire [0x03#8] [] [.bytes [] 1])).phase = .recv ∧
    (busy .recv [0x02#8] 2 none (wire [0x03#8] [] [.bytes [] 1])).attempt ≠ cfg.maxRetry ∧
    nextRead (wire [0x03#8] [] [.bytes [] 1]) = .bytes [] 1 ∧
    nextRead (wire [0x03#8] [] [.err [0x04#8]]) = .err [0x04#8] :=
  ⟨busy_inv _ _ _ _ _ (by decide) (by decide) (by simp) (by simp), by decide, rfl, by decide, rfl, rfl⟩

theorem witness_StepKeepsTheInvariant :
    StateInv (presented 0x033#10) ∧ ∃ t, step (presented 0x033#10) = .next t :=
  ⟨presented_inv _, ⟨_, rfl⟩⟩

theorem witness_OperationInProgressNeverStops :
    StateInv (busy .decode pollResponse 1 (some false) Wire.untouched) ∧
    (busy .decode pollResponse 1 (some false) Wire.untouched).schedule = [] ∧
    (busy .decode pollResponse 1 (some false) Wire.untouched).phase ≠ .idle :=
  ⟨busy_inv _ _ _ _ _ (by decide) (by decide) (fun _ => by decide +kernel) (by simp), rfl, by decide⟩

theorem witness_FailureKeepsLinkLatchesAndBuffers :
    StateInv (busy .recv [] 3 none Wire.untouched) ∧
    (busy .recv [] 3 none Wire.untouched).schedule = [] ∧
    (busy .recv [] 3 none Wire.untouched).phase ≠ .idle ∧
    step (busy .recv [] 3 none Wire.untouched) =
      .next ((busy .recv [] 3 none Wire.untouched).raise .retryExhausted) ∧
    ((busy .recv [] 3 none Wire.untouched).raise .retryExhausted).resValid = true ∧
    ((busy .recv [] 3 none Wire.untouched).raise .retryExhausted).resErr = some 4#4 ∧ 4#4 ≠ 0#4 :=
  ⟨busy_inv _ _ _ _ _ (by decide) (by decide) (by simp) (by simp), rfl, by decide, rfl, rfl, rfl,
    by decide⟩

theorem witness_OnlyLinkOperationsMoveTheLink :
    ∃ t, step (presented 0x200#10) = .next t ∧ t.linkOpen ≠ (presented 0x200#10).linkOpen :=
  ⟨_, rfl, by decide⟩

theorem witness_ParametersNeverChange : ∃ t, step (presented 0x033#10) = .next t := ⟨_, rfl⟩

theorem witness_OperandsAreSampledOnce :
    (busy .recv [] 3 none Wire.untouched).schedule = [] ∧
    (busy .recv [] 3 none Wire.untouched).phase ≠ .idle ∧
    ∃ t, step (busy .recv [] 3 none Wire.untouched) = .next t := ⟨rfl, by decide, ⟨_, rfl⟩⟩

/-- A POLL in progress with an input to land. -/
def busyInput (x : Input) : State :=
  { busy .recv [] 0 none Wire.untouched with schedule := [.input x] }

theorem busyInput_inv (x : Input) :
    StateInv (busyInput x) ∧ (busyInput x).phase ≠ .idle ∧ (busyInput x).schedule = .input x :: [] := by
  have h := busy_inv .recv [] 0 none Wire.untouched (by decide) (by decide) (by simp) (by simp)
  exact ⟨⟨h.txForm, h.txSpace, h.rxForm, h.opRawForm, h.opRawSpace, h.rxHeld, h.attempts, h.rxBound,
    h.opRawLenMax, h.opSetAMax, h.opSetBMax, h.errRange, h.errWritten, h.resultsEmpty,
    h.resultsSized, h.busy, h.completed, h.classified⟩, by simp [busyInput, busy], rfl⟩

theorem witness_BusyBlockShutsTheHostOut :
    (StateInv (busyInput (.writeHop 0x033#10)) ∧ (busyInput (.writeHop 0x033#10)).phase ≠ .idle ∧
      (busyInput (.writeHop 0x033#10)).schedule = .input (.writeHop 0x033#10) :: []) ∧
    (StateInv (busyInput (.read .resValid)) ∧ (busyInput (.read .resValid)).phase ≠ .idle ∧
      (busyInput (.read .resValid)).schedule = .input (.read .resValid) :: []) ∧
    StateInv (busyInput (.read (.resBill 23))) ∧ (busyInput (.read (.resBill 23))).phase ≠ .idle ∧
      (busyInput (.read (.resBill 23))).schedule = .input (.read (.resBill 23)) :: [] :=
  ⟨busyInput_inv _, busyInput_inv _, busyInput_inv _⟩

/-- A presented OPEN on a closed link, the transport willing. -/
def opening : State :=
  ((presented 0x100#10).setLink false).onWire { Wire.untouched with opens := [.ok] }

theorem witness_ClosedLinkTransfersNothing :
    StateInv opening ∧ opening.linkOpen = false ∧ ∃ t, step opening = .next t :=
  ⟨((presented_inv _).setLink rfl false).onWire _, rfl, ⟨_, rfl⟩⟩

/-- A completed POLL whose status register is read. -/
def readsStatus (v : Option Byte) : State :=
  { State.reset with
    schedule := [.input (.read .resStatus)]
    resValid := true
    resErr := some 0#4
    res := { Results.noValue with status := v } }

theorem witness_HostReadsReturnWhatIsHeld :
    (readsStatus none).schedule = .input (.read .resStatus) :: [] ∧
    (readsStatus none).resValid = true ∧ (readsStatus none).res.status = none ∧
    (readsStatus (some 0x14#8)).res.status = some 0x14#8 := by decide

/-- A table of 24 equal entries, its entry 23 read. -/
theorem witness_HostReadsReturnWhatIsHeld_bill :
    (List.replicate 24 (⟨0x05#8, 0#9, 0x55#8, 0x53#8, 0x41#8⟩ : BillEntry))[(23 : Fin 24).val]? =
      some ⟨0x05#8, 0#9, 0x55#8, 0x53#8, 0x41#8⟩ := by decide

theorem witness_HostWritesReachTheOperands :
    ({ State.reset with schedule := [.input (.writeHop 0x033#10)] } : State).phase = .idle ∧
    ({ State.reset with schedule := [.input (.writeHop 0x033#10)] } : State).schedule =
      .input (.writeHop 0x033#10) :: [] ∧
    (List.replicate 249 0x00#8).length ≤ 249 ∧ 249 < (List.replicate 250 0x00#8).length ∧
    (249#8).toNat ≤ 249 ∧ 249 < (250#8).toNat ∧
    (List.replicate 255 0x00#8).length ≤ 255 ∧ 255 < (List.replicate 256 0x00#8).length := by
  decide +kernel

theorem witness_UnwrittenOperandFaults :
    ({ State.reset with linkOpen := true } : State).phase = .idle ∧
    ({ State.reset with linkOpen := true } : State).opRawLen = none ∧
    ({ State.reset with linkOpen := true } : State).opSetA = none ∧
    ({ idle [0x01#8] [23#8] [] with opRawLen := some 2#8, opSetB := none } : State).linkOpen = true ∧
    memRead ({ idle [0x01#8] [23#8] [] with opRawLen := some 2#8, opSetB := none } : State).opRaw 1 =
      none ∧
    ({ idle [0x01#8] [23#8] [] with opRawLen := some 2#8, opSetB := none } : State).opSetA =
      some [23#8] := by decide

theorem witness_ResetAbandonsTheOperation :
    (busyInput .reset).schedule = .input .reset :: [] := rfl

theorem witness_IdleBlockWaits :
    State.reset.schedule = [] ∧ State.reset.phase = .idle ∧ State.reset.request = false := by decide

/-- A POLL at its first read, on a wire that stays silent. -/
def silent : State := busy .recv [] 0 none (wire [] [] (List.replicate 3 (.bytes [] 0)))

theorem witness_SilentDeviceExhaustsTheRetries :
    StateInv silent ∧ silent.schedule = [] ∧ silent.request = false ∧ silent.phase = .recv ∧
    silent.attempt = 0 ∧ silent.wire.win = [] ∧
    silent.wire.reads = List.replicate silent.cfg.maxRetry (.bytes [] 0) :=
  ⟨busy_inv _ _ _ _ _ (by decide) (by decide) (by simp) (by simp), rfl, rfl, rfl, rfl, rfl, rfl⟩

theorem witness_StepsComputeTheTransaction :
    StateInv (presented 0x033#10) ∧ (presented 0x033#10).schedule = [] ∧
    (presented 0x033#10).phase = .idle ∧ (presented 0x033#10).request = true ∧
    (presented 0x033#10).linkOpen = true ∧ (presented 0x033#10).hop = some 0x033#10 ∧
    decodeHop 0x033#10 = .ok .poll ∧ wireCode .poll = some 0x33#8 ∧
    encodeHook .poll (presented 0x033#10) = .value [] :=
  ⟨presented_inv _, rfl, rfl, rfl, rfl, rfl, by decide, rfl, rfl⟩

end Sys2Proof.Tests
end

section
/-! SUPPORT. Everything the block's turn and a whole step can do, one inversion lemma each. -/

namespace Sys2Proof.Machine

open Sys2Proof

/-- A presented operation is fetched or the machine stops: HOP raises no failure (43_reader.md R141). -/
theorem fetchOperation_not_raise (s : State) (f : Failure) : fetchOperation s ≠ .raise f := by
  unfold fetchOperation
  split
  · simp
  · split <;> simp

/-- What CUR_CODE is fetched as: the wire command of that code (10_state.md R14). -/
theorem fetchLatched_value {s : State} {i : Instr} (h : fetchLatched s = .value i) :
    ∃ code, s.curCode = some code ∧ wireCode i = some code := by
  unfold fetchLatched at h
  split at h
  · cases h
  · next code hc =>
    split at h
    · next j hj => injection h with h; subst h; exact ⟨code, hc, wireCode_decodeWireCode hj⟩
    · cases h

theorem fetchLatched_not_raise (s : State) (f : Failure) : fetchLatched s ≠ .raise f := by
  unfold fetchLatched
  split
  · simp
  · split <;> simp

/-- The block's turn at IDLE (10_state.md R11; 43_reader.md R141). -/
theorem blockStep_idle_next {s t : State} (hp : s.phase = .idle) (h : blockStep s = .next t) :
    (s.request = false ∧ t = s) ∨
      s.request = true ∧ ∃ i, fetchOperation s = .value i ∧ exec i s.takeRequest = .next t := by
  unfold blockStep at h
  simp only [hp] at h
  split at h
  · next hr =>
    split at h
    · next i hi => exact .inr ⟨hr, i, hi, h⟩
    · next f hf => exact absurd hf (fetchOperation_not_raise s f)
    · cases h
    · cases h
  · next hr => injection h with h; exact .inl ⟨by simpa using hr, h.symm⟩

theorem blockStep_send {s : State} (hp : s.phase = .send) : blockStep s = sendStep s := by
  simp [blockStep, hp]

theorem blockStep_recv {s : State} (hp : s.phase = .recv) : blockStep s = recvStep s := by
  simp [blockStep, hp]

theorem blockStep_hsack {s : State} (hp : s.phase = .hsack) : blockStep s = hsackStep s := by
  simp [blockStep, hp]

/-- The block's turn at DECODE is the decode step of the command in CUR_CODE (43_reader.md R152). -/
theorem blockStep_decode_next {s t : State} (hp : s.phase = .decode) (h : blockStep s = .next t) :
    ∃ i code, s.curCode = some code ∧ wireCode i = some code ∧
      decodeStep (decodeHook i) s = .next t := by
  unfold blockStep at h
  simp only [hp] at h
  split at h
  · next i hi =>
    obtain ⟨code, hc, hw⟩ := fetchLatched_value hi
    rw [exec_wireCommand hw, wireCommand_decode hp] at h
    exact ⟨i, code, hc, hw, h⟩
  · next f hf => exact absurd hf (fetchLatched_not_raise s f)
  · cases h
  · cases h

/-- A step is a turn of the block or an input that lands (log 6). -/
theorem step_next {s t : State} (h : step s = .next t) :
    (s.schedule = [] ∧ blockStep s = .next t) ∨
    (∃ rest, s.schedule = .block :: rest ∧ blockStep { s with schedule := rest } = .next t) ∨
    ∃ x rest, s.schedule = .input x :: rest ∧ land x { s with schedule := rest } = .next t := by
  unfold step at h
  split at h
  · next hs => exact .inl ⟨hs, h⟩
  · next rest hs => exact .inr (.inl ⟨rest, hs, h⟩)
  · next x rest hs => exact .inr (.inr ⟨x, rest, hs, h⟩)

/-- A host write of an operand register lands only at IDLE (70_reset_and_hazards.md R252). -/
theorem hostWrite_next {k : State → Result} {s t : State} (h : hostWrite k s = .next t) :
    s.phase = .idle ∧ k s = .next t := by
  unfold hostWrite at h
  split at h
  · next hp => exact ⟨hp, h⟩
  · cases h

end Sys2Proof.Machine
end

section
/-! The parameters (00_scope.md R5): no meaning, no turn of the block and no input writes
them. -/

namespace Sys2Proof.Machine

open Sys2Proof

/-- `k` leaves the parameters as they were wherever it answers a next state. -/
def KeepsCfg (k : State → Result) : Prop := ∀ ⦃s t : State⦄, k s = .next t → t.cfg = s.cfg

/-! ## The steps of an operation -/

theorem acceptStep_keepsCfg (code : Byte) (enc : State → Hook Bytes) :
    KeepsCfg (acceptStep code enc) := by
  intro s t h
  obtain ⟨-, rfl⟩ | ⟨-, f, -, rfl⟩ | ⟨-, p, -, rfl⟩ := acceptStep_next h <;> simp

theorem sendStep_keepsCfg : KeepsCfg sendStep := by
  intro s t h
  obtain ⟨f, -, ⟨w, -, rfl⟩ | ⟨w, -, rfl⟩⟩ := sendStep_next h <;> simp

theorem recvChunk_keepsCfg (c : Bytes) : KeepsCfg (recvChunk c) := by
  intro s t h
  obtain ⟨-, ⟨-, rfl⟩ | ⟨-, rfl⟩⟩ := recvChunk_next h <;> simp

theorem recvStep_keepsCfg : KeepsCfg recvStep := by
  intro s t h
  obtain ⟨-, rfl⟩ | ⟨-, ⟨w, -, rfl⟩ | ⟨c, w, -, hc⟩⟩ := recvStep_next h
  · simp
  · simp
  · simpa using recvChunk_keepsCfg c hc

theorem parsedAs_keepsCfg (ctrl : Bool) (p : Phase) : KeepsCfg (parsedAs ctrl p) := by
  rintro s t ⟨⟩
  rfl

theorem parsedFailure_keepsCfg (f : Failure) : KeepsCfg (parsedFailure f) := by
  rintro s t ⟨⟩
  simp

theorem whenPhase_keepsCfg (p : Phase) {k : State → Result} (hk : KeepsCfg k) :
    KeepsCfg (whenPhase p k) := by
  intro s t h
  obtain ⟨-, h⟩ | ⟨-, rfl⟩ := whenPhase_next h
  · exact hk h
  · rfl

theorem parseStep_keepsCfg {s t : State} (hp : s.phase = .parse) (h : parseStep s = .next t) :
    t.cfg = s.cfg := by
  obtain ⟨f, -, ⟨-, rfl⟩ | ⟨p, -, rfl⟩ | ⟨e, -, rfl⟩⟩ := parseStep_next hp h <;> simp

theorem hsackStep_keepsCfg : KeepsCfg hsackStep := by
  intro s t h
  obtain ⟨w, -, rfl⟩ | ⟨w, -, rfl⟩ := hsackStep_next h <;> simp

theorem decodeStep_keepsCfg (dec : Config → Bytes → Results → Except Failure Results) :
    KeepsCfg (decodeStep dec) := by
  intro s t h
  obtain ⟨p, -, ⟨f, -, rfl⟩ | ⟨r, -, rfl⟩⟩ := decodeStep_next h <;> simp

theorem openStep_keepsCfg : KeepsCfg openStep := by
  intro s t h
  obtain ⟨-, rfl⟩ | ⟨-, ⟨w, -, rfl⟩ | ⟨w, -, rfl⟩⟩ := openStep_next h <;> simp

theorem closeStep_keepsCfg : KeepsCfg closeStep := by
  intro s t h
  obtain ⟨-, rfl⟩ | ⟨-, rfl⟩ := closeStep_next h <;> simp

/-! ## The meanings -/

theorem wireCommand_keepsCfg (code : Byte) (enc : State → Hook Bytes)
    (dec : Config → Bytes → Results → Except Failure Results) :
    KeepsCfg (wireCommand code enc dec) := by
  intro s t h
  cases hp : s.phase with
  | idle => rw [wireCommand_idle hp] at h; exact acceptStep_keepsCfg code enc h
  | send => rw [wireCommand_send hp] at h; exact sendStep_keepsCfg h
  | recv => rw [wireCommand_recv hp] at h; exact recvStep_keepsCfg h
  | parse => rw [wireCommand_parse hp] at h; exact parseStep_keepsCfg hp h
  | hsack => rw [wireCommand_hsack hp] at h; exact hsackStep_keepsCfg h
  | decode => rw [wireCommand_decode hp] at h; exact decodeStep_keepsCfg dec h

/-- An instruction with a wire code is one skeleton; the link operations and the response classes are
the six that have none. -/
theorem exec_keepsCfg (i : Instr) : KeepsCfg (exec i) := by
  intro s t h
  cases hw : wireCode i with
  | some code =>
    rw [exec_wireCommand hw] at h
    exact wireCommand_keepsCfg _ _ _ h
  | none =>
    cases i with
    | openLink => exact whenPhase_keepsCfg .idle openStep_keepsCfg h
    | closeLink => exact whenPhase_keepsCfg .idle closeStep_keepsCfg h
    | rspAck => exact whenPhase_keepsCfg .parse (parsedAs_keepsCfg _ _) h
    | rspNack => exact whenPhase_keepsCfg .parse (parsedFailure_keepsCfg _) h
    | rspIllegal => exact whenPhase_keepsCfg .parse (parsedFailure_keepsCfg _) h
    | rspData => exact whenPhase_keepsCfg .parse (parsedAs_keepsCfg _ _) h
    | _ => simp [wireCode] at hw

/-! ## The turns -/

theorem blockStep_keepsCfg : KeepsCfg blockStep := by
  intro s t h
  cases hp : s.phase with
  | idle =>
    obtain ⟨-, rfl⟩ | ⟨-, i, -, hi⟩ := blockStep_idle_next hp h
    · rfl
    · simpa using exec_keepsCfg i hi
  | send => rw [blockStep_send hp] at h; exact sendStep_keepsCfg h
  | recv => rw [blockStep_recv hp] at h; exact recvStep_keepsCfg h
  | parse => rw [blockStep_parse hp] at h; exact parseStep_keepsCfg hp h
  | hsack => rw [blockStep_hsack hp] at h; exact hsackStep_keepsCfg h
  | decode =>
    obtain ⟨i, -, -, -, hd⟩ := blockStep_decode_next hp h
    exact decodeStep_keepsCfg _ hd

/-- A host write of an operand register keeps the parameters when its effect at IDLE does. -/
theorem hostWrite_keepsCfg {k : State → Result} (hk : KeepsCfg k) : KeepsCfg (hostWrite k) :=
  fun _ _ h => hk (hostWrite_next h).2

theorem writeOpHop_keepsCfg (w : BitVec 10) : KeepsCfg (writeOpHop w) := by
  rintro s t ⟨⟩
  rfl

theorem writeOpRaw_keepsCfg (p : Bytes) : KeepsCfg (writeOpRaw p) := by
  intro s t h
  unfold writeOpRaw at h
  split at h <;> cases h
  rfl

theorem writeOpRawLen_keepsCfg (n : Byte) : KeepsCfg (writeOpRawLen n) := by
  intro s t h
  unfold writeOpRawLen at h
  split at h <;> cases h
  rfl

theorem writeOpSetA_keepsCfg (l : Bytes) : KeepsCfg (writeOpSetA l) := by
  intro s t h
  unfold writeOpSetA at h
  split at h <;> cases h
  rfl

theorem writeOpSetB_keepsCfg (l : Bytes) : KeepsCfg (writeOpSetB l) := by
  intro s t h
  unfold writeOpSetB at h
  split at h <;> cases h
  rfl

@[simp] theorem present_cfg (s : State) : (present s).cfg = s.cfg := by
  unfold present
  split <;> rfl

theorem hostRead_keepsCfg (r : HostReg) : KeepsCfg (hostRead r) := by
  intro s t h
  unfold hostRead at h
  split at h <;> cases h <;> rfl

theorem land_keepsCfg (x : Input) : KeepsCfg (land x) := by
  intro s t h
  cases x with
  | writeHop w => exact hostWrite_keepsCfg (writeOpHop_keepsCfg w) h
  | writeRaw p => exact hostWrite_keepsCfg (writeOpRaw_keepsCfg p) h
  | writeRawLen n => exact hostWrite_keepsCfg (writeOpRawLen_keepsCfg n) h
  | writeSetA l => exact hostWrite_keepsCfg (writeOpSetA_keepsCfg l) h
  | writeSetB l => exact hostWrite_keepsCfg (writeOpSetB_keepsCfg l) h
  | present => cases h; exact present_cfg s
  | read r => exact hostRead_keepsCfg r h
  | deviceSends p => cases h; rfl
  | reset => cases h; rfl

theorem step_keepsCfg : KeepsCfg step := by
  intro s t h
  obtain ⟨-, hb⟩ | ⟨rest, -, hb⟩ | ⟨x, rest, -, hl⟩ := step_next h
  · exact blockStep_keepsCfg hb
  · exact (blockStep_keepsCfg hb :)
  · exact (land_keepsCfg x hl :)

/-- Settles O50: each meaning, each turn of the block and each input keeps the field that holds the
parameters, a landing reset included (00_scope.md R5; 70_reset_and_hazards.md R243). -/
theorem parametersNeverChange : Obligations.ParametersNeverChange :=
  fun _ _ h => step_keepsCfg h

end Sys2Proof.Machine
end

section
/-! The frame of a wire command's steps (10_state.md R28; 43_reader.md R141 to R152): what every
step leaves unchanged, and, phase by phase, what it may write. -/

namespace Sys2Proof.Machine

open Sys2Proof

/-! ## The transport calls -/

/-- A write leaves what belongs to reads and opens alone, whatever the answer (20_memory.md R45). -/
theorem twrite_frame {f : Bytes} {w w' : Wire} {ok : Bool} (h : w.twrite f = (ok, w')) :
    w'.win = w.win ∧ w'.reads = w.reads ∧ w'.opens = w.opens := by
  unfold Wire.twrite at h
  split at h <;> cases h <;> exact ⟨rfl, rfl, rfl⟩

/-- A read leaves what belongs to writes and opens alone, whatever the answer (20_memory.md R46). -/
theorem tread_frame {chunk : Nat} {w w' : Wire} {c : Option Bytes} (h : w.tread chunk = (c, w')) :
    w'.wout = w.wout ∧ w'.writes = w.writes ∧ w'.opens = w.opens := by
  unfold Wire.tread at h
  split at h <;> cases h <;> exact ⟨rfl, rfl, rfl⟩

/-! ## What a step may write -/

/-- The frame of one step from `s` to `t`, by the phase the step is taken in. The fields without a
premise are the outside's and the link operations' alone. -/
structure RegisterFrame (s t : State) : Prop where
  cfg : t.cfg = s.cfg
  linkOpen : t.linkOpen = s.linkOpen
  hop : t.hop = s.hop
  opRaw : t.opRaw = s.opRaw
  opRawLen : t.opRawLen = s.opRawLen
  opSetA : t.opSetA = s.opSetA
  opSetB : t.opSetB = s.opSetB
  schedule : t.schedule = s.schedule
  request : t.request = s.request
  hostBus : t.hostBus = s.hostBus
  opens : t.wire.opens = s.wire.opens
  latched : s.phase ≠ .idle → t.curCode = s.curCode ∧ t.txLen = s.txLen
  counted : s.phase ≠ .send → s.phase ≠ .recv → t.attempt = s.attempt ∧ t.rxLen = s.rxLen
  classified : s.phase ≠ .parse → t.rspCtrl = s.rspCtrl
  wire : s.phase = .idle ∨ s.phase = .parse ∨ s.phase = .decode → t.wire = s.wire
  readSide : s.phase ≠ .recv → t.wire.win = s.wire.win ∧ t.wire.reads = s.wire.reads
  writeSide : s.phase ≠ .send → s.phase ≠ .hsack →
    t.wire.wout = s.wire.wout ∧ t.wire.writes = s.wire.writes
  results : s.phase ≠ .idle → t.phase ≠ .idle →
    t.res = s.res ∧ t.resValid = s.resValid ∧ t.resErr = s.resErr
  accepted : s.phase = .idle → t.phase ≠ .idle → t.resErr = s.resErr

theorem RegisterFrame.refl (s : State) : RegisterFrame s s := by constructor <;> simp

/-! ## The steps of an operation -/

theorem acceptStep_registerFrame {code : Byte} {enc : State → Hook Bytes} {s t : State}
    (hp : s.phase = .idle) (h : acceptStep code enc s = .next t) : RegisterFrame s t := by
  obtain ⟨-, rfl⟩ | ⟨-, f, -, rfl⟩ | ⟨-, p, -, rfl⟩ := acceptStep_next h <;>
    constructor <;> simp [hp]

theorem sendStep_registerFrame {s t : State} (hp : s.phase = .send) (h : sendStep s = .next t) :
    RegisterFrame s t := by
  obtain ⟨f, -, ⟨w, hw, rfl⟩ | ⟨w, hw, rfl⟩⟩ := sendStep_next h <;>
    constructor <;> simp [hp, twrite_frame hw]

/-- RECV's read writes the wire's read side; its chunk writes only RXBUF, RXLEN and PHASE. -/
theorem recvStep_registerFrame {s t : State} (hp : s.phase = .recv) (h : recvStep s = .next t) :
    RegisterFrame s t := by
  obtain ⟨-, rfl⟩ | ⟨-, ⟨w, hw, rfl⟩ | ⟨c, w, hw, hc⟩⟩ := recvStep_next h
  · constructor <;> simp [hp]
  · constructor <;> simp [hp, tread_frame hw]
  · obtain ⟨-, ⟨-, rfl⟩ | ⟨-, rfl⟩⟩ := recvChunk_next hc <;>
      constructor <;> simp [hp, tread_frame hw]

theorem parseStep_registerFrame {s t : State} (hp : s.phase = .parse) (h : parseStep s = .next t) :
    RegisterFrame s t := by
  obtain ⟨f, -, ⟨-, rfl⟩ | ⟨p, -, rfl⟩ | ⟨e, -, rfl⟩⟩ := parseStep_next hp h <;>
    constructor <;> simp [hp]

theorem hsackStep_registerFrame {s t : State} (hp : s.phase = .hsack)
    (h : hsackStep s = .next t) : RegisterFrame s t := by
  obtain ⟨w, hw, rfl⟩ | ⟨w, hw, rfl⟩ := hsackStep_next h <;>
    constructor <;> simp [hp, twrite_frame hw]

theorem decodeStep_registerFrame {dec : Config → Bytes → Results → Except Failure Results}
    {s t : State} (hp : s.phase = .decode) (h : decodeStep dec s = .next t) :
    RegisterFrame s t := by
  obtain ⟨p, -, ⟨f, -, rfl⟩ | ⟨r, -, rfl⟩⟩ := decodeStep_next h <;>
    constructor <;> simp [hp]

/-! ## The meanings -/

theorem wireCommand_registerFrame {code : Byte} {enc : State → Hook Bytes}
    {dec : Config → Bytes → Results → Except Failure Results} {s t : State}
    (h : wireCommand code enc dec s = .next t) : RegisterFrame s t := by
  cases hp : s.phase with
  | idle => rw [wireCommand_idle hp] at h; exact acceptStep_registerFrame hp h
  | send => rw [wireCommand_send hp] at h; exact sendStep_registerFrame hp h
  | recv => rw [wireCommand_recv hp] at h; exact recvStep_registerFrame hp h
  | parse => rw [wireCommand_parse hp] at h; exact parseStep_registerFrame hp h
  | hsack => rw [wireCommand_hsack hp] at h; exact hsackStep_registerFrame hp h
  | decode => rw [wireCommand_decode hp] at h; exact decodeStep_registerFrame hp h

/-- A response class meets the frame at PARSE, and elsewhere changes nothing (43_reader.md R140). -/
theorem whenParse_registerFrame {k : State → Result}
    (hk : ∀ {s t : State}, s.phase = .parse → k s = .next t → RegisterFrame s t) {s t : State}
    (h : whenPhase .parse k s = .next t) : RegisterFrame s t := by
  obtain ⟨hp, h⟩ | ⟨-, rfl⟩ := whenPhase_next h
  · exact hk hp h
  · exact .refl _

theorem parsedAs_registerFrame {ctrl : Bool} {p : Phase} {s t : State} (hp : s.phase = .parse)
    (h : parsedAs ctrl p s = .next t) : RegisterFrame s t := by
  cases h
  constructor <;> simp [hp]

theorem parsedFailure_registerFrame {f : Failure} {s t : State} (hp : s.phase = .parse)
    (h : parsedFailure f s = .next t) : RegisterFrame s t := by
  cases h
  constructor <;> simp [hp]

/-- Every instruction but OPEN and CLOSE meets the frame, in whatever phase it is applied. -/
theorem exec_registerFrame {i : Instr} {s t : State} (ho : i ≠ .openLink) (hc : i ≠ .closeLink)
    (h : exec i s = .next t) : RegisterFrame s t := by
  cases hw : wireCode i with
  | some code => rw [exec_wireCommand hw] at h; exact wireCommand_registerFrame h
  | none =>
    cases i with
    | openLink => exact absurd rfl ho
    | closeLink => exact absurd rfl hc
    | rspAck => exact whenParse_registerFrame parsedAs_registerFrame h
    | rspNack => exact whenParse_registerFrame parsedFailure_registerFrame h
    | rspIllegal => exact whenParse_registerFrame parsedFailure_registerFrame h
    | rspData => exact whenParse_registerFrame parsedAs_registerFrame h
    | _ => simp [wireCode] at hw

/-- Settles O38: the frame of each of the six steps, through the one skeleton that every wire
command shares. -/
theorem wireCommandRegisterFrame : Obligations.WireCommandRegisterFrame := by
  intro i s t hi h
  obtain ⟨code, hw⟩ := mem_wireCommands.mp hi
  rw [exec_wireCommand hw] at h
  have k := wireCommand_registerFrame h
  exact ⟨k.cfg, k.linkOpen, k.hop, k.opRawLen, k.opSetA, k.opSetB, k.schedule, k.request,
    k.hostBus, k.latched, k.counted, k.classified, k.wire, k.opens, k.readSide, k.writeSide,
    k.results, k.accepted⟩

end Sys2Proof.Machine
end

section
/-! What an input does to the block (log 6): one equation and one inversion lemma for each kind. -/

namespace Sys2Proof.Machine

open Sys2Proof

/-! ## Whose turn it is -/

theorem step_of_noSchedule {s : State} (h : s.schedule = []) : step s = blockStep s := by
  simp [step, h]

theorem step_input {s : State} {x : Input} {rest : List Turn} (h : s.schedule = .input x :: rest) :
    step s = land x { s with schedule := rest } := by
  simp [step, h]

theorem blockStep_noRequest {s : State} (hp : s.phase = .idle) (hr : s.request = false) :
    blockStep s = .next s := by
  simp [blockStep, hp, hr]

/-! ## Host writes -/

theorem hostWrite_idle {k : State → Result} {s : State} (hp : s.phase = .idle) :
    hostWrite k s = k s := by
  simp [hostWrite, hp]

theorem writeOpRaw_fits {p : Bytes} (h : p.length ≤ 249) (s : State) :
    writeOpRaw p s = .next { s with opRaw := memWriteBytes s.opRaw 0 p } := if_pos h

theorem writeOpRaw_tooLong {p : Bytes} (h : 249 < p.length) (s : State) :
    writeOpRaw p s = .refused .operandTooLong := if_neg (Nat.not_le.mpr h)

theorem writeOpRawLen_fits {n : Byte} (h : n.toNat ≤ 249) (s : State) :
    writeOpRawLen n s = .next { s with opRawLen := some n } := if_pos h

theorem writeOpRawLen_tooLong {n : Byte} (h : 249 < n.toNat) (s : State) :
    writeOpRawLen n s = .refused .operandTooLong := if_neg (Nat.not_le.mpr h)

theorem writeOpSetA_fits {l : Bytes} (h : l.length ≤ 255) (s : State) :
    writeOpSetA l s = .next { s with opSetA := some l } := if_pos h

theorem writeOpSetA_tooLong {l : Bytes} (h : 255 < l.length) (s : State) :
    writeOpSetA l s = .refused .operandTooLong := if_neg (Nat.not_le.mpr h)

theorem writeOpSetB_fits {l : Bytes} (h : l.length ≤ 255) (s : State) :
    writeOpSetB l s = .next { s with opSetB := some l } := if_pos h

theorem writeOpSetB_tooLong {l : Bytes} (h : 255 < l.length) (s : State) :
    writeOpSetB l s = .refused .operandTooLong := if_neg (Nat.not_le.mpr h)

theorem writeOpRaw_next {p : Bytes} {s t : State} (h : writeOpRaw p s = .next t) :
    t = { s with opRaw := memWriteBytes s.opRaw 0 p } := by
  unfold writeOpRaw at h
  split at h <;> cases h
  rfl

theorem writeOpRawLen_next {n : Byte} {s t : State} (h : writeOpRawLen n s = .next t) :
    t = { s with opRawLen := some n } := by
  unfold writeOpRawLen at h
  split at h <;> cases h
  rfl

theorem writeOpSetA_next {l : Bytes} {s t : State} (h : writeOpSetA l s = .next t) :
    t = { s with opSetA := some l } := by
  unfold writeOpSetA at h
  split at h <;> cases h
  rfl

theorem writeOpSetB_next {l : Bytes} {s t : State} (h : writeOpSetB l s = .next t) :
    t = { s with opSetB := some l } := by
  unfold writeOpSetB at h
  split at h <;> cases h
  rfl

/-- A host write that lands at IDLE as the operand's write does, whatever turns are left. -/
theorem lands_write {s u : State} {x : Input} {k : State → Result} (hp : s.phase = .idle)
    (hx : land x = hostWrite k)
    (hk : ∀ rest, k { s with schedule := rest } = .next { u with schedule := rest }) :
    Lands s x (.next u) := by
  intro rest hs
  rw [step_input hs, hx, hostWrite_idle (s := { s with schedule := rest }) hp, hk]

/-- A host write that is refused at IDLE as the operand's write is. -/
theorem lands_write_refused {s : State} {x : Input} {k : State → Result} {e : Refusal}
    (hp : s.phase = .idle) (hx : land x = hostWrite k) (hk : ∀ r, k r = .refused e) :
    Lands s x (.refused e) := by
  intro rest hs
  rw [step_input hs, hx, hostWrite_idle (s := { s with schedule := rest }) hp, hk]

/-! ## Host reads -/

theorem resultValue_valid {s : State} (hv : s.resValid = true) (r : HostReg) (name : Reg)
    (v : Option HostValue) :
    resultValue r name v s = v.elim (.fault (.noValue name)) .value := by
  cases v <;> simp [resultValue, hv]

theorem hostValue_schedule (r : HostReg) (s : State) (rest : List Turn) :
    hostValue r { s with schedule := rest } = hostValue r s := by
  cases r <;> rfl

theorem hostRead_linkOpen {r : HostReg} {s t : State} (h : hostRead r s = .next t) :
    t.linkOpen = s.linkOpen := by
  unfold hostRead at h
  split at h <;> cases h <;> rfl

/-- A read of a register that has a value puts it on the host bus (log 15). -/
theorem hostReads_value {s : State} {r : HostReg} {v : HostValue} (h : hostValue r s = .value v) :
    HostReads s r (some v) := by
  intro rest hs
  show step s = _
  rw [step_input hs]
  simp only [land, hostRead, hostValue_schedule, h]

/-- A read of a register that holds no value is a fault (10_state.md R17). -/
theorem hostReads_noValue {s : State} {r : HostReg} {name : Reg}
    (h : hostValue r s = .fault (.noValue name)) : HostReads s r none := by
  intro rest hs
  refine ⟨name, ?_⟩
  rw [step_input hs]
  simp only [land, hostRead, hostValue_schedule, h]

/-- While RES_VALID = 1 a result register reads as what it holds (10_state.md R15, R17). -/
theorem hostReads_result {s : State} (hv : s.resValid = true) {r : HostReg} {name : Reg}
    {v : Option HostValue} (h : hostValue r s = resultValue r name v s) : HostReads s r v := by
  rw [resultValue_valid hv] at h
  cases v with
  | some v => exact hostReads_value h
  | none => exact hostReads_noValue h

/-! ## The statements -/

/-- Settles O53: three registers are read at any time, the others through `resultValue`. -/
theorem hostReadsReturnWhatIsHeld : Obligations.HostReadsReturnWhatIsHeld := by
  intro s
  refine ⟨hostReads_value ?_, hostReads_value rfl, hostReads_value rfl, fun hv => ?_⟩
  · simp [hostValue, bne, beq_eq_decide]
  · refine ⟨hostReads_result hv rfl, hostReads_result hv rfl, hostReads_result hv rfl,
      hostReads_result hv rfl, hostReads_result hv rfl, hostReads_result hv rfl,
      hostReads_result hv rfl, hostReads_result hv rfl, hostReads_result hv rfl,
      hostReads_result hv rfl, fun i => ⟨fun hb => ?_, fun t e hb he => ?_⟩⟩
    · exact hostReads_result hv (name := .resBill) (by simp [hostValue, hb])
    · exact hostReads_result hv (name := .resBill) (by simp [hostValue, hb, he])

/-- Settles O54: at IDLE a host write is its operand's write, which fits or is refused. -/
theorem hostWritesReachTheOperands : Obligations.HostWritesReachTheOperands := by
  intro s hp
  exact ⟨fun w => lands_write hp rfl (fun _ => rfl),
    fun p h => lands_write hp rfl (fun _ => writeOpRaw_fits h _),
    fun n h => lands_write hp rfl (fun _ => writeOpRawLen_fits h _),
    fun l h => lands_write hp rfl (fun _ => writeOpSetA_fits h _),
    fun l h => lands_write hp rfl (fun _ => writeOpSetB_fits h _),
    fun p h => lands_write_refused hp rfl (writeOpRaw_tooLong h),
    fun n h => lands_write_refused hp rfl (writeOpRawLen_tooLong h),
    fun l h => lands_write_refused hp rfl (writeOpSetA_tooLong h),
    fun l h => lands_write_refused hp rfl (writeOpSetB_tooLong h)⟩

/-- Settles O56: an empty schedule is the block's turn, and the idle block waits. -/
theorem idleBlockWaits : Obligations.IdleBlockWaits := by
  intro s hs hp hr
  rw [step_of_noSchedule hs, blockStep_noRequest hp hr]

end Sys2Proof.Machine
end

section
/-! The link bit (10_state.md R12): who moves it. -/

namespace Sys2Proof.Machine

open Sys2Proof

@[simp] theorem present_linkOpen (s : State) : (present s).linkOpen = s.linkOpen := by
  unfold present
  split <;> rfl

/-- An input other than a reset leaves the link bit alone. -/
theorem land_linkOpen {x : Input} {s t : State} (hx : x ≠ .reset) (h : land x s = .next t) :
    t.linkOpen = s.linkOpen := by
  cases x with
  | writeHop w => cases (hostWrite_next h).2; rfl
  | writeRaw p => rw [writeOpRaw_next (hostWrite_next h).2]
  | writeRawLen n => rw [writeOpRawLen_next (hostWrite_next h).2]
  | writeSetA l => rw [writeOpSetA_next (hostWrite_next h).2]
  | writeSetB l => rw [writeOpSetB_next (hostWrite_next h).2]
  | present => cases h; exact present_linkOpen s
  | read r => exact hostRead_linkOpen h
  | deviceSends p => cases h; rfl
  | reset => exact absurd rfl hx

/-- While an operation is in progress the block's turn leaves the link bit alone. -/
theorem blockStep_busy_linkOpen {s t : State} (hp : s.phase ≠ .idle) (h : blockStep s = .next t) :
    t.linkOpen = s.linkOpen := by
  cases hq : s.phase with
  | idle => exact absurd hq hp
  | send => rw [blockStep_send hq] at h; exact (sendStep_registerFrame hq h).linkOpen
  | recv => rw [blockStep_recv hq] at h; exact (recvStep_registerFrame hq h).linkOpen
  | parse => rw [blockStep_parse hq] at h; exact (parseStep_registerFrame hq h).linkOpen
  | hsack => rw [blockStep_hsack hq] at h; exact (hsackStep_registerFrame hq h).linkOpen
  | decode =>
    obtain ⟨i, -, -, -, hd⟩ := blockStep_decode_next hq h
    exact (decodeStep_registerFrame hq hd).linkOpen

/-- A turn of the block that moves the link bit runs a presented OPEN or CLOSE. -/
theorem blockStep_movesLink {s t : State} (h : blockStep s = .next t)
    (hl : t.linkOpen ≠ s.linkOpen) :
    s.phase = .idle ∧ s.request = true ∧
      (fetchOperation s = .value .openLink ∨ fetchOperation s = .value .closeLink) := by
  have hp : s.phase = .idle := by
    by_contra hp
    exact hl (blockStep_busy_linkOpen hp h)
  obtain ⟨-, rfl⟩ | ⟨hr, i, hi, he⟩ := blockStep_idle_next hp h
  · exact absurd rfl hl
  · refine ⟨hp, hr, ?_⟩
    by_cases ho : i = .openLink
    · exact .inl (ho ▸ hi)
    · by_cases hc : i = .closeLink
      · exact .inr (hc ▸ hi)
      · exact absurd (exec_registerFrame ho hc he).linkOpen hl

/-- Settles O48: a turn of the block moves the link bit by OPEN or CLOSE alone, an input by a reset
alone. -/
theorem onlyLinkOperationsMoveTheLink : Obligations.OnlyLinkOperationsMoveTheLink := by
  intro s t h hl
  obtain ⟨-, hb⟩ | ⟨rest, -, hb⟩ | ⟨x, rest, hs, hx⟩ := step_next h
  · exact .inr (blockStep_movesLink hb hl)
  · exact .inr (blockStep_movesLink hb hl :)
  · by_cases hr : x = .reset
    · exact .inl (by simp [hs, hr])
    · exact absurd (land_linkOpen hr hx) hl

end Sys2Proof.Machine
end

section
/-! The invariant of Sys2Proof/Safety.lean (20_memory.md R40, R41; 43_reader.md R140 to R152): every
meaning, every turn of the block and every input keeps it. -/

namespace Sys2Proof.Machine

open Sys2Proof

/-- `k` gives only states that meet the invariant, from every state that meets it. -/
def KeepsInv (k : State → Result) : Prop :=
  ∀ ⦃s t : State⦄, StateInv s → k s = .next t → StateInv t

/-! ## The named updates past ACCEPT -/

/-- PHASE and RSP_CTRL move on within an operation: past RECV the frame is complete, and past PARSE it
is classified (43_reader.md R144, R147, R149). -/
theorem StateInv.moveTo {s : State} (h : StateInv s) (hb : s.phase ≠ .idle) {p : Phase}
    {c : Option Bool} (hf : p = .parse ∨ p = .hsack ∨ p = .decode → rxComplete s = some true)
    (hc : (p = .hsack → c = some false) ∧ (p = .decode → c.isSome = true)) :
    StateInv { s with phase := p, rspCtrl := c } :=
  { h with
    busy := fun _ => h.busy hb
    completed := hf
    classified := hc }

/-- A fresh accumulator holds nothing (43_reader.md R142; 20_memory.md R41). -/
theorem StateInv.startReceive {s : State} (h : StateInv s) (hb : s.phase ≠ .idle) :
    StateInv s.startReceive :=
  { h with
    rxForm := rfl
    rxHeld := by simp
    attempts := Nat.zero_le _
    rxBound := Nat.zero_le _
    busy := fun _ => h.busy hb
    completed := by simp
    classified := by simp }

/-- Below the limit one more attempt may be counted (43_reader.md R143). -/
theorem StateInv.countAttempt {s : State} (h : StateInv s) (ha : s.attempt ≠ s.cfg.maxRetry) :
    StateInv s.countAttempt :=
  { h with
    attempts := Nat.lt_of_le_of_ne h.attempts ha
    rxBound := Nat.le_trans h.rxBound (Nat.mul_le_mul_right _ (Nat.le_succ _)) }

/-- An append in RECV that the attempts made leave room for (43_reader.md R146). -/
theorem StateInv.appendRx {s : State} (h : StateInv s) (hp : s.phase = .recv) {c : Bytes}
    (hc : s.rxLen + c.length ≤ s.attempt * s.cfg.readChunkMax) : StateInv (s.appendRx c) :=
  { h with
    rxForm := memWf_memWriteBytes _ _ _ h.rxForm
    rxHeld := appendRx_held c h.rxHeld
    rxBound := hc
    completed := by simp [hp]
    classified := by simp [hp] }

/-- After reset no buffer, latch or result holds a value (70_reset_and_hazards.md R240). -/
theorem resetBlock_inv (s : State) : StateInv s.resetBlock := by
  constructor <;> simp [State.resetBlock, memWf, memBelow, noValue_sized]

/-! ## The results of DECODE -/

/-- A payload handed to DECODE fits in the accumulator beside its frame (43_reader.md R146, R148). -/
theorem StateInv.payload_length {s : State} (h : StateInv s) (hp : s.phase = .decode) {p : Bytes}
    (hq : PayloadIs s p) : p.length + 6 ≤ max s.cfg.rxCap 6 := by
  obtain ⟨-, rfl⟩ | ⟨-, hm⟩ := hq
  · simp
  · have h6 := (rxComplete_iff.mp (h.completed (.inr (.inr hp)))).1
    have hcap := h.rx_cap
    rw [memReadBytes_length hm]
    omega

/-- Every decode hook writes results of their sizes (10_state.md R18, R21, R22). -/
theorem decodeHook_sized {i : Instr} {c : Config} {p : Bytes} {r : Results}
    (hp : p.length + 6 ≤ max c.rxCap 6) (h : decodeHook i c p Results.noValue = .ok r) :
    r.Sized c.rxCap := by
  have discard : ∀ {r}, decodeDiscard c p Results.noValue = .ok r → r.Sized c.rxCap := by
    rintro r ⟨⟩
    exact noValue_sized _
  have raw : ∀ {r}, decodeRaw c p Results.noValue = .ok r → r.Sized c.rxCap := by
    rintro r ⟨⟩
    exact { noValue_sized c.rxCap with
      raw := by rintro _ ⟨⟩; exact ⟨hp, rfl⟩
      rawLen := fun hn => by cases hn }
  cases i with
  | poll =>
    simp only [decodeHook, decodePoll] at h
    split at h <;> cases h
    exact { noValue_sized c.rxCap with }
  | getStatus =>
    simp only [decodeHook, decodeGetStatus] at h
    split at h <;> cases h
    exact { noValue_sized c.rxCap with }
  | getBillTable =>
    simp only [decodeHook, decodeGetBillTable] at h
    split at h <;> cases h
    exact { noValue_sized c.rxCap with
      bill := by rintro _ ⟨⟩; simp }
  | ident =>
    simp only [decodeHook, decodeIdent] at h
    split at h <;> cases h
    next hlen =>
    simp only [Config.idMinLen] at hlen
    exact { noValue_sized c.rxCap with
      part := by rintro _ ⟨⟩; simp; omega
      serial := by rintro _ ⟨⟩; simp; omega
      asset := by rintro _ ⟨⟩; simp; omega }
  | barcode | getCrc32 => exact raw h
  | _ => exact discard h

/-! ## The steps of an operation -/

theorem acceptStep_keepsInv {i : Instr} {code : Byte} (hw : wireCode i = some code) {s t : State}
    (hs : StateInv s) (hp : s.phase = .idle) (h : acceptStep code (encodeHook i) s = .next t) :
    StateInv t := by
  have hb := hs.beginOperation hp
  obtain ⟨-, rfl⟩ | ⟨-, f, -, rfl⟩ | ⟨hl, p, he, rfl⟩ := acceptStep_next h
  · exact hb.raise _
  · exact hb.raise f
  · exact hb.latchRequest rfl hl hw p (encodeHook_length he)

theorem sendStep_keepsInv {s t : State} (hs : StateInv s) (hp : s.phase = .send)
    (h : sendStep s = .next t) : StateInv t := by
  obtain ⟨f, -, ⟨w, -, rfl⟩ | ⟨w, -, rfl⟩⟩ := sendStep_next h
  · exact (hs.onWire w).startReceive (by simp [hp])
  · exact (hs.onWire w).raise _

/-- A chunk that the attempts made leave room for. -/
theorem recvChunk_keepsInv {c : Bytes} {s t : State} (hs : StateInv s) (hp : s.phase = .recv)
    (hc : s.rxLen + c.length ≤ s.attempt * s.cfg.readChunkMax) (h : recvChunk c s = .next t) :
    StateInv t := by
  have ha := hs.appendRx hp hc
  obtain ⟨-, ⟨hf, rfl⟩ | ⟨-, rfl⟩⟩ := recvChunk_next h
  · exact ha.moveTo (by simp [hp]) (fun _ => hf) (by simp)
  · exact ha

/-- RECV: the counted attempt is the room for the chunk that its read returns (20_memory.md R46;
43_reader.md R146). -/
theorem recvStep_keepsInv {s t : State} (hs : StateInv s) (hp : s.phase = .recv)
    (h : recvStep s = .next t) : StateInv t := by
  obtain ⟨-, rfl⟩ | ⟨ha, ⟨w, -, rfl⟩ | ⟨c, w, hw, hc⟩⟩ := recvStep_next h
  · exact hs.raise _
  · exact ((hs.countAttempt ha).onWire w).raise _
  · have hroom : s.rxLen + c.length ≤ (s.attempt + 1) * s.cfg.readChunkMax := by
      rw [Nat.succ_mul]
      exact Nat.add_le_add hs.rxBound (tread_length hw)
    exact recvChunk_keepsInv ((hs.countAttempt ha).onWire w) hp hroom hc

theorem parseStep_keepsInv {s t : State} (hs : StateInv s) (hp : s.phase = .parse)
    (h : parseStep s = .next t) : StateInv t := by
  have hf := hs.completed (.inl hp)
  obtain ⟨f, -, ⟨-, rfl⟩ | ⟨p, -, rfl⟩ | ⟨e, -, rfl⟩⟩ := parseStep_next hp h
  · exact hs.moveTo (by simp [hp]) (fun _ => hf) (by simp)
  · exact hs.moveTo (by simp [hp]) (fun _ => hf) (by simp)
  · exact hs.raise e

theorem hsackStep_keepsInv {s t : State} (hs : StateInv s) (hp : s.phase = .hsack)
    (h : hsackStep s = .next t) : StateInv t := by
  obtain ⟨w, -, rfl⟩ | ⟨w, -, rfl⟩ := hsackStep_next h
  · exact (hs.onWire w).moveTo (by simp [hp]) (fun _ => hs.completed (.inr (.inl hp)))
      (by simp [hs.classified.1 hp])
  · exact (hs.onWire w).raise _

/-- DECODE: the hook starts from empty results, since RES_VALID is 0 while an operation is in progress
(10_state.md R17). -/
theorem decodeStep_keepsInv {i : Instr} {s t : State} (hs : StateInv s) (hp : s.phase = .decode)
    (h : decodeStep (decodeHook i) s = .next t) : StateInv t := by
  obtain ⟨p, hq, ⟨f, -, rfl⟩ | ⟨r, hr, rfl⟩⟩ := decodeStep_next h
  · exact hs.raise f
  · obtain ⟨-, hv, -⟩ := hs.busy (by simp [hp])
    rw [hs.resultsEmpty (by simp [hv])] at hr
    exact hs.complete r (decodeHook_sized (hs.payload_length hp hq) hr)

theorem openStep_keepsInv {s t : State} (hs : StateInv s) (hp : s.phase = .idle)
    (h : openStep s = .next t) : StateInv t := by
  have hb := hs.beginOperation hp
  obtain ⟨-, rfl⟩ | ⟨-, ⟨w, -, rfl⟩ | ⟨w, -, rfl⟩⟩ := openStep_next h
  · exact hb.raise _
  · exact ((hb.onWire w).setLink hp true).complete _ (noValue_sized _)
  · exact (hb.onWire w).raise _

theorem closeStep_keepsInv {s t : State} (hs : StateInv s) (hp : s.phase = .idle)
    (h : closeStep s = .next t) : StateInv t := by
  have hb := hs.beginOperation hp
  obtain ⟨-, rfl⟩ | ⟨-, rfl⟩ := closeStep_next h
  · exact hb.raise _
  · exact ((hb.onWire s.wire.tclose).setLink hp false).complete _ (noValue_sized _)

/-! ## The meanings -/

theorem wireCommand_keepsInv {i : Instr} {code : Byte} (hw : wireCode i = some code) :
    KeepsInv (wireCommand code (encodeHook i) (decodeHook i)) := by
  intro s t hs h
  cases hp : s.phase with
  | idle => rw [wireCommand_idle hp] at h; exact acceptStep_keepsInv hw hs hp h
  | send => rw [wireCommand_send hp] at h; exact sendStep_keepsInv hs hp h
  | recv => rw [wireCommand_recv hp] at h; exact recvStep_keepsInv hs hp h
  | parse => rw [wireCommand_parse hp] at h; exact parseStep_keepsInv hs hp h
  | hsack => rw [wireCommand_hsack hp] at h; exact hsackStep_keepsInv hs hp h
  | decode => rw [wireCommand_decode hp] at h; exact decodeStep_keepsInv hs hp h

/-- A meaning that only one phase enables keeps the invariant when it does so in that phase
(43_reader.md R140). -/
theorem whenPhase_keepsInv {p : Phase} {k : State → Result}
    (hk : ∀ {s t : State}, StateInv s → s.phase = p → k s = .next t → StateInv t) :
    KeepsInv (whenPhase p k) := by
  intro s t hs h
  obtain ⟨hp, h⟩ | ⟨-, rfl⟩ := whenPhase_next h
  · exact hk hs hp h
  · exact hs

/-- A success of PARSERSP moves PHASE past PARSE and classifies the frame (43_reader.md R147). -/
theorem parsedAs_keepsInv {ctrl : Bool} {p : Phase}
    (hc : p = .hsack → ctrl = false) {s t : State} (hs : StateInv s) (hp : s.phase = .parse)
    (h : parsedAs ctrl p s = .next t) : StateInv t := by
  cases h
  exact hs.moveTo (by simp [hp]) (fun _ => hs.completed (.inl hp)) (by simpa using hc)

theorem parsedFailure_keepsInv (f : Failure) : KeepsInv (parsedFailure f) := by
  rintro s t hs ⟨⟩
  exact hs.raise f

theorem exec_keepsInv (i : Instr) : KeepsInv (exec i) := by
  intro s t hs h
  cases hw : wireCode i with
  | some code => rw [exec_wireCommand hw] at h; exact wireCommand_keepsInv hw hs h
  | none =>
    cases i with
    | openLink => exact whenPhase_keepsInv openStep_keepsInv hs h
    | closeLink => exact whenPhase_keepsInv closeStep_keepsInv hs h
    | rspAck => exact whenPhase_keepsInv (parsedAs_keepsInv (by simp)) hs h
    | rspNack => exact whenPhase_keepsInv (fun hs _ => parsedFailure_keepsInv _ hs) hs h
    | rspIllegal => exact whenPhase_keepsInv (fun hs _ => parsedFailure_keepsInv _ hs) hs h
    | rspData => exact whenPhase_keepsInv (parsedAs_keepsInv (by simp)) hs h
    | _ => simp [wireCode] at hw

/-! ## The turns -/

theorem blockStep_keepsInv : KeepsInv blockStep := by
  intro s t hs h
  cases hp : s.phase with
  | idle =>
    obtain ⟨-, rfl⟩ | ⟨-, i, -, hi⟩ := blockStep_idle_next hp h
    · exact hs
    · exact exec_keepsInv i (hs.side s.wire s.schedule false s.hostBus s.hop) hi
  | send => rw [blockStep_send hp] at h; exact sendStep_keepsInv hs hp h
  | recv => rw [blockStep_recv hp] at h; exact recvStep_keepsInv hs hp h
  | parse => rw [blockStep_parse hp] at h; exact parseStep_keepsInv hs hp h
  | hsack => rw [blockStep_hsack hp] at h; exact hsackStep_keepsInv hs hp h
  | decode =>
    obtain ⟨i, -, -, -, hd⟩ := blockStep_decode_next hp h
    exact decodeStep_keepsInv hs hp hd

/-- A host write of an operand register keeps the invariant when its effect at IDLE does. -/
theorem hostWrite_keepsInv {k : State → Result} (hk : KeepsInv k) : KeepsInv (hostWrite k) :=
  fun _ _ hs h => hk hs (hostWrite_next h).2

theorem writeOpHop_keepsInv (w : BitVec 10) : KeepsInv (writeOpHop w) := by
  rintro s t hs ⟨⟩
  exact hs.side s.wire s.schedule s.request s.hostBus (some w)

theorem writeOpRaw_keepsInv (p : Bytes) : KeepsInv (writeOpRaw p) := by
  intro s t hs h
  unfold writeOpRaw at h
  split at h <;> cases h
  next hlen =>
  exact { hs with
    opRawForm := memWf_memWriteBytes _ _ _ hs.opRawForm
    opRawSpace := memBelow_memWriteBytes _ _ _ _ hs.opRawSpace (by simpa [txPayMax] using hlen) }

theorem writeOpRawLen_keepsInv (n : Byte) : KeepsInv (writeOpRawLen n) := by
  intro s t hs h
  unfold writeOpRawLen at h
  split at h <;> cases h
  next hlen => exact { hs with opRawLenMax := by rintro _ ⟨⟩; exact hlen }

theorem writeOpSetA_keepsInv (l : Bytes) : KeepsInv (writeOpSetA l) := by
  intro s t hs h
  unfold writeOpSetA at h
  split at h <;> cases h
  next hlen => exact { hs with opSetAMax := by rintro _ ⟨⟩; exact hlen }

theorem writeOpSetB_keepsInv (l : Bytes) : KeepsInv (writeOpSetB l) := by
  intro s t hs h
  unfold writeOpSetB at h
  split at h <;> cases h
  next hlen => exact { hs with opSetBMax := by rintro _ ⟨⟩; exact hlen }

/-- A presentation writes the request line and nothing else (43_reader.md R141). -/
theorem present_eq (s : State) : ∃ q, present s = { s with request := q } := by
  unfold present
  split <;> exact ⟨_, rfl⟩

/-- A host read writes the host bus and nothing else (20_memory.md R52). -/
theorem hostRead_next {r : HostReg} {s t : State} (h : hostRead r s = .next t) :
    ∃ b, t = { s with hostBus := b } := by
  unfold hostRead at h
  split at h <;> cases h
  · exact ⟨_, rfl⟩
  · exact ⟨s.hostBus, rfl⟩

theorem StateInv.present {s : State} (h : StateInv s) : StateInv (present s) := by
  obtain ⟨q, hq⟩ := present_eq s
  exact hq ▸ h.side s.wire s.schedule q s.hostBus s.hop

theorem hostRead_keepsInv (r : HostReg) : KeepsInv (hostRead r) := by
  intro s t hs h
  obtain ⟨b, rfl⟩ := hostRead_next h
  exact hs.side s.wire s.schedule s.request b s.hop

theorem land_keepsInv (x : Input) : KeepsInv (land x) := by
  intro s t hs h
  cases x with
  | writeHop w => exact hostWrite_keepsInv (writeOpHop_keepsInv w) hs h
  | writeRaw p => exact hostWrite_keepsInv (writeOpRaw_keepsInv p) hs h
  | writeRawLen n => exact hostWrite_keepsInv (writeOpRawLen_keepsInv n) hs h
  | writeSetA l => exact hostWrite_keepsInv (writeOpSetA_keepsInv l) hs h
  | writeSetB l => exact hostWrite_keepsInv (writeOpSetB_keepsInv l) hs h
  | present => cases h; exact hs.present
  | read r => exact hostRead_keepsInv r hs h
  | deviceSends p => cases h; exact hs.onWire _
  | reset => cases h; exact resetBlock_inv s

theorem step_keepsInv : KeepsInv step := by
  intro s t hs h
  have hturn (rest : List Turn) := hs.side s.wire rest s.request s.hostBus s.hop
  obtain ⟨-, hb⟩ | ⟨rest, -, hb⟩ | ⟨x, rest, -, hx⟩ := step_next h
  · exact blockStep_keepsInv hs hb
  · exact blockStep_keepsInv (hturn rest) hb
  · exact land_keepsInv x (hturn rest) hx

/-- Settles O45: each meaning, each turn of the block and each input keeps the invariant; the room for
a chunk is the attempt that RECV counts before it, and what DECODE writes fits because the frame in
RXBUF does. -/
theorem stepKeepsTheInvariant : Obligations.StepKeepsTheInvariant :=
  fun _ _ hs h => step_keepsInv hs h

end Sys2Proof.Machine
end

section
/-! The buffers (20_memory.md R41; 43_reader.md R141 to R146): what the steps of a wire command write in
TXBUF and RXBUF. -/

namespace Sys2Proof.Machine

open Sys2Proof

/-- TXBUF and RXBUF over one step from `s` to `t` of the wire command with code `code` and encode hook
`enc`, by the phase the step is taken in. -/
structure BufferFrame (code : Byte) (enc : State → Hook Bytes) (s t : State) : Prop where
  txKept : s.phase ≠ .idle → t.tx = s.tx
  txAccept : t.tx = s.tx ∨ ∃ p, enc s = .value p ∧ t.tx = memWriteBytes s.tx 0 (buildReq code p)
  rxKept : s.phase ≠ .send → s.phase ≠ .recv → t.rx = s.rx
  rxSend : s.phase = .send → (t.phase = .idle ∧ t.rx = s.rx) ∨ (t.phase = .recv ∧ t.rx = [])
  rxRecv : s.phase = .recv → ∃ c : Bytes,
    t.rx = memWriteBytes s.rx s.rxLen c ∧ t.rxLen = s.rxLen + c.length

section
variable {code : Byte} {enc : State → Hook Bytes} {s t : State}

theorem acceptStep_bufferFrame (hp : s.phase = .idle) (h : acceptStep code enc s = .next t) :
    BufferFrame code enc s t := by
  obtain ⟨-, rfl⟩ | ⟨-, f, -, rfl⟩ | ⟨-, p, he, rfl⟩ := acceptStep_next h
  · constructor <;> simp [hp]
  · constructor <;> simp [hp]
  · exact {
      txKept := absurd hp
      txAccept := .inr ⟨p, he, rfl⟩
      rxKept := fun _ _ => rfl
      rxSend := by simp [hp]
      rxRecv := by simp [hp] }

theorem sendStep_bufferFrame (hp : s.phase = .send) (h : sendStep s = .next t) :
    BufferFrame code enc s t := by
  obtain ⟨f, -, ⟨w, -, rfl⟩ | ⟨w, -, rfl⟩⟩ := sendStep_next h <;> constructor <;> simp [hp]

theorem recvStep_bufferFrame (hp : s.phase = .recv) (h : recvStep s = .next t) :
    BufferFrame code enc s t := by
  have chunk (c : Bytes) (htx : t.tx = s.tx) (hrx : t.rx = memWriteBytes s.rx s.rxLen c)
      (hlen : t.rxLen = s.rxLen + c.length) : BufferFrame code enc s t := {
    txKept := fun _ => htx
    txAccept := .inl htx
    rxKept := fun _ hr => absurd hp hr
    rxSend := by simp [hp]
    rxRecv := fun _ => ⟨c, hrx, hlen⟩ }
  obtain ⟨-, rfl⟩ | ⟨-, ⟨w, -, rfl⟩ | ⟨c, w, -, hc⟩⟩ := recvStep_next h
  · exact chunk [] rfl rfl rfl
  · exact chunk [] rfl rfl rfl
  · obtain ⟨-, ⟨-, rfl⟩ | ⟨-, rfl⟩⟩ := recvChunk_next hc <;> exact chunk c rfl rfl rfl

theorem parseStep_bufferFrame (hp : s.phase = .parse) (h : parseStep s = .next t) :
    BufferFrame code enc s t := by
  obtain ⟨f, -, ⟨-, rfl⟩ | ⟨p, -, rfl⟩ | ⟨e, -, rfl⟩⟩ := parseStep_next hp h <;>
    constructor <;> simp [hp]

theorem hsackStep_bufferFrame (hp : s.phase = .hsack) (h : hsackStep s = .next t) :
    BufferFrame code enc s t := by
  obtain ⟨w, -, rfl⟩ | ⟨w, -, rfl⟩ := hsackStep_next h <;> constructor <;> simp [hp]

theorem decodeStep_bufferFrame {dec : Config → Bytes → Results → Except Failure Results}
    (hp : s.phase = .decode) (h : decodeStep dec s = .next t) : BufferFrame code enc s t := by
  obtain ⟨p, -, ⟨f, -, rfl⟩ | ⟨r, -, rfl⟩⟩ := decodeStep_next h <;> constructor <;> simp [hp]

theorem wireCommand_bufferFrame {dec : Config → Bytes → Results → Except Failure Results}
    (h : wireCommand code enc dec s = .next t) : BufferFrame code enc s t := by
  cases hp : s.phase with
  | idle => rw [wireCommand_idle hp] at h; exact acceptStep_bufferFrame hp h
  | send => rw [wireCommand_send hp] at h; exact sendStep_bufferFrame hp h
  | recv => rw [wireCommand_recv hp] at h; exact recvStep_bufferFrame hp h
  | parse => rw [wireCommand_parse hp] at h; exact parseStep_bufferFrame hp h
  | hsack => rw [wireCommand_hsack hp] at h; exact hsackStep_bufferFrame hp h
  | decode => rw [wireCommand_decode hp] at h; exact decodeStep_bufferFrame hp h

/-- Past the request that ACCEPT latches, TXBUF keeps what it held (43_reader.md R141). -/
theorem BufferFrame.tx_outside (k : BufferFrame code enc s t) {a : Nat}
    (ha : ∀ p, enc s = .value p → (buildReq code p).length ≤ a) :
    memRead t.tx a = memRead s.tx a := by
  obtain htx | ⟨p, he, htx⟩ := k.txAccept
  · rw [htx]
  · rw [htx, memRead_memWriteBytes_outside _ _ _ _ (.inr (by simpa using ha p he))]

/-- Outside the bytes that RECV appends, RXBUF keeps what it held (43_reader.md R146). -/
theorem BufferFrame.rx_outside (k : BufferFrame code enc s t) (hp : s.phase = .recv) {a : Nat}
    (ha : a < s.rxLen ∨ t.rxLen ≤ a) : memRead t.rx a = memRead s.rx a := by
  obtain ⟨c, hrx, hlen⟩ := k.rxRecv hp
  rw [hrx, memRead_memWriteBytes_outside _ _ _ _ (hlen ▸ ha)]

end

/-- Settles O39: the buffers over each of the six steps, read one address at a time. -/
theorem wireCommandBufferFrame : Obligations.WireCommandBufferFrame := by
  intro i s t a hi h
  obtain ⟨code, hw⟩ := mem_wireCommands.mp hi
  rw [exec_wireCommand hw] at h
  have hraw := (wireCommand_registerFrame h).opRaw
  have k := wireCommand_bufferFrame h
  refine ⟨by rw [hraw], fun hb => by rw [k.txKept hb], ?_, ?_, fun h1 h2 => by rw [k.rxKept h1 h2],
    ?_, ?_, fun hp => k.rx_outside hp⟩
  · intro code' p _ hw' he ha
    obtain rfl : code = code' := by simpa [hw] using hw'
    refine k.tx_outside fun q hq => ?_
    obtain rfl : p = q := by simpa [he] using hq
    exact ha
  · exact fun hn => k.tx_outside fun p he => absurd he (hn p)
  · intro hp ht
    obtain ⟨-, hrx⟩ | ⟨hr, -⟩ := k.rxSend hp
    · rw [hrx]
    · simp [ht] at hr
  · intro hp ht
    obtain ⟨hi, -⟩ | ⟨-, hrx⟩ := k.rxSend hp
    · simp [ht] at hi
    · rw [hrx, memRead_nil]

end Sys2Proof.Machine
end

section
/-! A closed link (20_memory.md R47): what a step does to the wire. -/

namespace Sys2Proof.Machine

open Sys2Proof

/-- An open leaves both streams alone, whatever the answer (20_memory.md R47). -/
theorem topen_frame {w w' : Wire} {ok : Bool} (h : w.topen = (ok, w')) :
    w'.calls = w.calls ++ [.topen] ∧ w'.wout = w.wout ∧ w'.win = w.win := by
  unfold Wire.topen at h
  split at h <;> cases h <;> exact ⟨rfl, rfl, rfl⟩

/-- With the link closed no operation is in progress. -/
theorem StateInv.idle_of_closed {s : State} (h : StateInv s) (hl : s.linkOpen = false) :
    s.phase = .idle := by
  by_contra hp
  obtain ⟨ho, -⟩ := h.busy hp
  simp [hl] at ho

/-- An input other than bytes of the device leaves the wire alone. -/
theorem land_wire {x : Input} {s t : State} (hx : ∀ p, x ≠ .deviceSends p)
    (h : land x s = .next t) : t.wire = s.wire := by
  cases x with
  | writeHop w => cases (hostWrite_next h).2; rfl
  | writeRaw p => rw [writeOpRaw_next (hostWrite_next h).2]
  | writeRawLen n => rw [writeOpRawLen_next (hostWrite_next h).2]
  | writeSetA l => rw [writeOpSetA_next (hostWrite_next h).2]
  | writeSetB l => rw [writeOpSetB_next (hostWrite_next h).2]
  | present => cases h; obtain ⟨q, hq⟩ := present_eq s; rw [hq]
  | read r => obtain ⟨b, rfl⟩ := hostRead_next h; rfl
  | deviceSends p => exact absurd rfl (hx p)
  | reset => cases h; rfl

/-- The wire is as it was, or one TOpen later. -/
def AtMostOpens (w w' : Wire) : Prop :=
  (w'.calls = w.calls ∨ w'.calls = w.calls ++ [.topen]) ∧ w'.wout = w.wout ∧ w'.win = w.win

theorem AtMostOpens.of_eq {w w' : Wire} (h : w' = w) : AtMostOpens w w' :=
  h ▸ ⟨.inl rfl, rfl, rfl⟩

theorem openStep_atMostOpens {s t : State} (h : openStep s = .next t) :
    AtMostOpens s.wire t.wire := by
  obtain ⟨-, rfl⟩ | ⟨-, ⟨w, hw, rfl⟩ | ⟨w, hw, rfl⟩⟩ := openStep_next h
  · exact .of_eq rfl
  all_goals
    obtain ⟨hc, hstreams⟩ := topen_frame hw
    exact ⟨.inr hc, hstreams⟩

/-- CLOSE of a closed link is ConnectionStateError (44_commands.md R187). -/
theorem closeStep_wire_of_closed {s t : State} (hl : s.linkOpen = false)
    (h : closeStep s = .next t) : t.wire = s.wire := by
  obtain ⟨-, rfl⟩ | ⟨ho, -⟩ := closeStep_next h
  · rfl
  · simp [hl] at ho

/-- At IDLE with the link closed a meaning reaches the transport only by the TOpen of OPEN. -/
theorem exec_closed_atMostOpens {i : Instr} {s t : State} (hp : s.phase = .idle)
    (hl : s.linkOpen = false) (h : exec i s = .next t) : AtMostOpens s.wire t.wire := by
  by_cases ho : i = .openLink
  · subst ho
    obtain ⟨-, h⟩ | ⟨-, rfl⟩ := whenPhase_next h
    · exact openStep_atMostOpens h
    · exact .of_eq rfl
  · by_cases hc : i = .closeLink
    · subst hc
      obtain ⟨-, h⟩ | ⟨-, rfl⟩ := whenPhase_next h
      · exact .of_eq (closeStep_wire_of_closed hl h)
      · exact .of_eq rfl
    · exact .of_eq ((exec_registerFrame ho hc h).wire (.inl hp))

theorem blockStep_closed_atMostOpens {s t : State} (hs : StateInv s) (hl : s.linkOpen = false)
    (h : blockStep s = .next t) : AtMostOpens s.wire t.wire := by
  have hp := hs.idle_of_closed hl
  obtain ⟨-, rfl⟩ | ⟨-, i, -, hi⟩ := blockStep_idle_next hp h
  · exact .of_eq rfl
  · exact exec_closed_atMostOpens (s := s.takeRequest) hp hl hi

/-- Of the inputs only the device's bytes reach the wire (20_memory.md R44). -/
theorem step_closed_atMostOpens {s t : State} (hs : StateInv s) (hl : s.linkOpen = false)
    (hd : ¬ ∃ p, s.schedule.head? = some (.input (.deviceSends p))) (h : step s = .next t) :
    AtMostOpens s.wire t.wire := by
  obtain ⟨-, hb⟩ | ⟨rest, -, hb⟩ | ⟨x, rest, hsch, hx⟩ := step_next h
  · exact blockStep_closed_atMostOpens hs hl hb
  · exact blockStep_closed_atMostOpens (s := { s with schedule := rest })
      (hs.side s.wire rest s.request s.hostBus s.hop) hl hb
  · refine .of_eq (land_wire (s := { s with schedule := rest }) (fun p hp => hd ⟨p, ?_⟩) hx)
    rw [hsch, hp, List.head?_cons]

/-- Settles O49: with the link closed the block is idle, so its turn is at most a TOpen, and of the
inputs only the device's bytes reach the wire. -/
theorem closedLinkTransfersNothing : Obligations.ClosedLinkTransfersNothing := by
  intro s t hs hl h
  by_cases hd : ∃ p, s.schedule.head? = some (.input (.deviceSends p))
  · obtain ⟨p, hp⟩ := hd
    obtain ⟨rest, hsch⟩ := List.head?_eq_some_iff.mp hp
    rw [step_input hsch] at h
    cases h
    exact ⟨.inl rfl, rfl, .inr ⟨p, hp, rfl⟩⟩
  · obtain ⟨hcalls, hout, hin⟩ := step_closed_atMostOpens hs hl hd h
    exact ⟨hcalls, hout, .inl hin⟩

end Sys2Proof.Machine
end

section
/-! The operand registers (10_state.md R16; 20_memory.md R55): past ACCEPT no step reads them. -/

namespace Sys2Proof.Machine

open Sys2Proof

/-- What the operand registers HOP, OP_RAW, OP_RAWLEN, OP_SETA and OP_SETB hold (10_state.md R16). -/
structure Operands where
  hop : Option (BitVec 10)
  opRaw : Memory
  opRawLen : Option Byte
  opSetA : Option Bytes
  opSetB : Option Bytes

/-- `s` with other values in the operand registers. -/
def State.withOperands (o : Operands) (s : State) : State :=
  { s with
    hop := o.hop
    opRaw := o.opRaw
    opRawLen := o.opRawLen
    opSetA := o.opSetA
    opSetB := o.opSetB }

section
variable (o : Operands) (s : State)

@[simp] theorem withOperands_cfg : (s.withOperands o).cfg = s.cfg := rfl
@[simp] theorem withOperands_phase : (s.withOperands o).phase = s.phase := rfl
@[simp] theorem withOperands_attempt : (s.withOperands o).attempt = s.attempt := rfl
@[simp] theorem withOperands_curCode : (s.withOperands o).curCode = s.curCode := rfl
@[simp] theorem withOperands_tx : (s.withOperands o).tx = s.tx := rfl
@[simp] theorem withOperands_txLen : (s.withOperands o).txLen = s.txLen := rfl
@[simp] theorem withOperands_rx : (s.withOperands o).rx = s.rx := rfl
@[simp] theorem withOperands_rxLen : (s.withOperands o).rxLen = s.rxLen := rfl
@[simp] theorem withOperands_res : (s.withOperands o).res = s.res := rfl
@[simp] theorem withOperands_wire : (s.withOperands o).wire = s.wire := rfl

@[simp] theorem withOperands_onWire (w : Wire) :
    (s.withOperands o).onWire w = (s.onWire w).withOperands o := rfl
@[simp] theorem withOperands_raise (f : Failure) :
    (s.withOperands o).raise f = (s.raise f).withOperands o := rfl
@[simp] theorem withOperands_startReceive :
    (s.withOperands o).startReceive = s.startReceive.withOperands o := rfl
@[simp] theorem withOperands_countAttempt :
    (s.withOperands o).countAttempt = s.countAttempt.withOperands o := rfl
@[simp] theorem withOperands_appendRx (c : Bytes) :
    (s.withOperands o).appendRx c = (s.appendRx c).withOperands o := rfl
@[simp] theorem withOperands_goTo (p : Phase) :
    (s.withOperands o).goTo p = (s.goTo p).withOperands o := rfl

@[simp] theorem rxComplete_withOperands : rxComplete (s.withOperands o) = rxComplete s := rfl

end

/-- `k` gives the same next state whatever the operand registers hold, but for these, which it
keeps. -/
def IgnoresOperands (k : State → Result) : Prop :=
  ∀ (o : Operands) ⦃s t : State⦄, k s = .next t → k (s.withOperands o) = .next (t.withOperands o)

theorem sendStep_ignoresOperands : IgnoresOperands sendStep := by
  intro o s t h
  obtain ⟨f, hf, ⟨w, hw, rfl⟩ | ⟨w, hw, rfl⟩⟩ := sendStep_next h <;> simp [sendStep, hf, hw]

theorem recvChunk_ignoresOperands (c : Bytes) : IgnoresOperands (recvChunk c) := by
  intro o s t h
  obtain ⟨hroom, ⟨hf, rfl⟩ | ⟨hf, rfl⟩⟩ := recvChunk_next h <;> simp [recvChunk, hroom, hf]

theorem recvStep_ignoresOperands : IgnoresOperands recvStep := by
  intro o s t h
  obtain ⟨ha, rfl⟩ | ⟨ha, ⟨w, hw, rfl⟩ | ⟨c, w, hw, hc⟩⟩ := recvStep_next h
  · simp [recvStep, ha]
  · simp [recvStep, ha, hw]
  · simpa [recvStep, ha, hw] using recvChunk_ignoresOperands c o hc

theorem parseStep_ignoresOperands {o : Operands} {s t : State} (hp : s.phase = .parse)
    (h : parseStep s = .next t) : parseStep (s.withOperands o) = .next (t.withOperands o) := by
  obtain ⟨f, hf, hcases⟩ := parseStep_next hp h
  rw [parseStep_eq (s := s.withOperands o) hp hf]
  obtain ⟨hc, rfl⟩ | ⟨p, hc, rfl⟩ | ⟨e, hc, rfl⟩ := hcases <;> rw [hc] <;> rfl

theorem hsackStep_ignoresOperands : IgnoresOperands hsackStep := by
  intro o s t h
  obtain ⟨w, hw, rfl⟩ | ⟨w, hw, rfl⟩ := hsackStep_next h <;> simp [hsackStep, hw]

theorem decodeStep_ignoresOperands (dec : Config → Bytes → Results → Except Failure Results) :
    IgnoresOperands (decodeStep dec) := by
  intro o s t h
  obtain ⟨p, hp, hcases⟩ := decodeStep_next h
  rw [decodeStep_eq (s := s.withOperands o) hp, withOperands_cfg, withOperands_res]
  obtain ⟨f, hd, rfl⟩ | ⟨r, hd, rfl⟩ := hcases <;> rw [hd] <;> rfl

/-- HOP is fetched at IDLE only, and the encode hooks run in ACCEPT only (43_reader.md R141). -/
theorem blockStep_busy_ignoresOperands {o : Operands} {s t : State} (hp : s.phase ≠ .idle)
    (h : blockStep s = .next t) : blockStep (s.withOperands o) = .next (t.withOperands o) := by
  cases hq : s.phase with
  | idle => exact absurd hq hp
  | send =>
    rw [blockStep_send hq] at h
    rw [blockStep_send (s := s.withOperands o) hq, sendStep_ignoresOperands o h]
  | recv =>
    rw [blockStep_recv hq] at h
    rw [blockStep_recv (s := s.withOperands o) hq, recvStep_ignoresOperands o h]
  | parse =>
    rw [blockStep_parse hq] at h
    rw [blockStep_parse (s := s.withOperands o) hq, parseStep_ignoresOperands hq h]
  | hsack =>
    rw [blockStep_hsack hq] at h
    rw [blockStep_hsack (s := s.withOperands o) hq, hsackStep_ignoresOperands o h]
  | decode =>
    obtain ⟨i, code, hc, hw, hd⟩ := blockStep_decode_next hq h
    rw [blockStep_busy (s := s.withOperands o) hp hc hw, exec_wireCommand hw,
      wireCommand_decode (s := s.withOperands o) hq, decodeStep_ignoresOperands _ o hd]

/-- Settles O51: each of the five steps past ACCEPT ignores the operand registers. -/
theorem operandsAreSampledOnce : Obligations.OperandsAreSampledOnce := by
  intro s t hop raw rawLen setA setB hs hp h
  rw [step_of_noSchedule hs] at h
  rw [step_of_noSchedule (by exact hs)]
  exact blockStep_busy_ignoresOperands (o := ⟨hop, raw, rawLen, setA, setB⟩) hp h

end Sys2Proof.Machine
end

section
/-! The host port of a busy block (20_memory.md R55; 70_reset_and_hazards.md R252). -/

namespace Sys2Proof.Machine

open Sys2Proof

theorem hostWrite_busy {k : State → Result} {s : State} (hp : s.phase ≠ .idle) :
    hostWrite k s = .refused .operandWriteWhileBusy := if_neg hp

/-- While RES_VALID = 0 a result register has no value to give (10_state.md R15, R17). -/
theorem resultValue_notValid {s : State} (hv : s.resValid = false) (r : HostReg) (name : Reg)
    (v : Option HostValue) : resultValue r name v s = .fault (.resultNotValid r) := by
  simp [resultValue, hv]

/-- Every register but "busy", OPEN and RES_VALID is read through `resultValue`. -/
theorem hostRead_notValid {s : State} (hv : s.resValid = false) {r : HostReg} (hb : r ≠ .busy)
    (hl : r ≠ .linkOpen) (hr : r ≠ .resValid) : hostRead r s = .fault (.resultNotValid r) := by
  have h : hostValue r s = .fault (.resultNotValid r) := by
    cases r with
    | busy => exact absurd rfl hb
    | linkOpen => exact absurd rfl hl
    | resValid => exact absurd rfl hr
    | _ => exact resultValue_notValid hv _ _ _
  simp only [hostRead, h]

/-- Settles O52: a host write lands at IDLE only, and a busy block's RES_VALID is 0 by the invariant. -/
theorem busyBlockShutsTheHostOut : Obligations.BusyBlockShutsTheHostOut := by
  intro s rest x hs hp hsch
  obtain ⟨-, hv, -⟩ := hs.busy hp
  rw [step_input hsch]
  refine ⟨?_, ?_, ?_⟩
  · rintro (⟨w, rfl⟩ | ⟨p, rfl⟩ | ⟨n, rfl⟩ | ⟨l, rfl⟩ | ⟨l, rfl⟩) <;> exact hostWrite_busy hp
  · rintro rfl
    simp [land, hostRead, hostValue, hv]
  · rintro r rfl hb hl hr
    exact hostRead_notValid (s := { s with schedule := rest }) hv hb hl hr

end Sys2Proof.Machine
end

section
/-! Decoding and encoding are inverse (30_encoding.md R71, R72, R77; 42_frame.md R123): an operation
word is its kind followed by its code, and a response is a sealed frame of a class. -/

namespace Sys2Proof.Machine

open Sys2Proof

/-! ## Operation words -/

/-- A wire command's word is kind 0 and its code (30_encoding.md R72). -/
theorem encode_wireCode {i : Instr} {code : Byte} (h : wireCode i = some code) :
    encode i = .hop (0b00#2 ++ code) := by
  cases i <;> cases h <;> rfl

theorem decodeHop_wireCode {i : Instr} {code : Byte} (h : wireCode i = some code) :
    decodeHop (0b00#2 ++ code) = .ok i := by
  simp only [decodeHop, BitVec.extractLsb'_append_eq_left, BitVec.extractLsb'_append_eq_right,
    if_true, decodeWireCode_wireCode h]

/-- The words that decode, by kind (30_encoding.md R71). -/
theorem decodeHop_ok {w : BitVec 10} {i : Instr} (h : decodeHop w = .ok i) :
    (∃ code, wireCode i = some code ∧ w = 0b00#2 ++ code) ∨
    (i = .openLink ∧ w = 0b01#2 ++ 0x00#8) ∨ (i = .closeLink ∧ w = 0b10#2 ++ 0x00#8) := by
  have hw : w.extractLsb' 8 2 ++ w.extractLsb' 0 8 = w :=
    BitVec.extractLsb'_append_extractLsb' (w := 2) (len := 8)
  unfold decodeHop at h
  simp only at h
  split at h
  · next j hj =>
    injection h with h
    subst h
    split_ifs at hj with hk hk hk
    · exact .inl ⟨_, wireCode_decodeWireCode hj, by rw [← hk, hw]⟩
    · exact .inr (.inl ⟨(Option.some.inj hj).symm, by rw [← hk.1, ← hk.2, hw]⟩)
    · exact .inr (.inr ⟨(Option.some.inj hj).symm, by rw [← hk.1, ← hk.2, hw]⟩)
  · cases h

/-- A word decodes to exactly the operation whose word it is. -/
theorem decodeHop_ok_iff {w : BitVec 10} {i : Instr} : decodeHop w = .ok i ↔ encode i = .hop w := by
  constructor
  · intro h
    obtain ⟨code, hc, rfl⟩ | ⟨rfl, rfl⟩ | ⟨rfl, rfl⟩ := decodeHop_ok h
    · exact encode_wireCode hc
    · rfl
    · rfl
  · intro h
    cases hc : wireCode i with
    | some code =>
      rw [encode_wireCode hc] at h
      cases h
      exact decodeHop_wireCode hc
    | none => cases i <;> cases hc <;> cases h <;> rfl

/-! ## Frames -/

/-- The class of a sealed frame encodes to that frame. -/
theorem encode_classOf (len echo : Byte) (p : Bytes) :
    encode (classOf len echo p) = .frame (sealFrame len echo p) := by
  cases p with
  | nil =>
    simp only [classOf]
    split_ifs with h0 hFF h30
    · rw [h0]; rfl
    · rw [hFF]; rfl
    · rw [h30]; rfl
    · rfl
  | cons b r => rfl

theorem classOf_wellFormed (len echo : Byte) (p : Bytes) : (classOf len echo p).WellFormed := by
  cases p with
  | nil =>
    simp only [classOf]
    split_ifs with h0 hFF h30
    · rfl
    · rfl
    · rfl
    · simp [Instr.WellFormed, Instr.wf, isControlEcho, h0, hFF, h30]
  | cons b r => rfl

/-- A well-formed substantive response keeps its class: its echo is no control value when its payload
is empty (30_encoding.md R77). -/
theorem classOf_rspData {len echo : Byte} {p : Bytes} (h : (Instr.rspData len echo p).WellFormed) :
    classOf len echo p = .rspData len echo p := by
  cases p with
  | nil => simp_all [Instr.WellFormed, Instr.wf, isControlEcho, classOf]
  | cons b r => rfl

/-- A byte sequence decodes to exactly the well-formed response whose frame it is. -/
theorem decodeFrame_ok_iff {s : Bytes} {i : Instr} :
    decodeFrame s = .ok i ↔ encode i = .frame s ∧ i.WellFormed := by
  constructor
  · intro h
    obtain ⟨len, echo, p, rfl, rfl⟩ := decodeFrame_ok h
    exact ⟨encode_classOf len echo p, classOf_wellFormed len echo p⟩
  · rintro ⟨h, hw⟩
    cases i with
    | rspAck len => cases h; exact decodeFrame_sealFrame len 0x00#8 []
    | rspNack len => cases h; exact decodeFrame_sealFrame len 0xFF#8 []
    | rspIllegal len => cases h; exact decodeFrame_sealFrame len 0x30#8 []
    | rspData len echo p => cases h; rw [decodeFrame_sealFrame, classOf_rspData hw]
    | _ => cases h

/-! ## The two inverse laws -/

theorem wellFormed_of_encode_hop {i : Instr} {w : BitVec 10} (h : encode i = .hop w) :
    i.WellFormed := by
  cases i <;> cases h <;> rfl

/-- Decoding reads exactly the words of the well-formed instructions. -/
theorem decode_ok_iff {c : Code} {i : Instr} : decode c = .ok i ↔ encode i = c ∧ i.WellFormed := by
  cases c with
  | hop w =>
    rw [show decode (.hop w) = decodeHop w from rfl, decodeHop_ok_iff]
    exact ⟨fun h => ⟨h, wellFormed_of_encode_hop h⟩, And.left⟩
  | frame s =>
    rw [← decodeFrame_ok_iff]
    simp only [decode]
    rcases decodeFrame s with e | j <;> simp

/-- Settles O2: the words of a well-formed instruction are what decoding reads as it. -/
theorem decodeOfEncode : Obligations.DecodeOfEncode :=
  fun _ h => decode_ok_iff.mpr ⟨rfl, h⟩

/-- Settles O3: decoding reads nothing else. -/
theorem encodeOfDecode : Obligations.EncodeOfDecode :=
  fun _ _ h => decode_ok_iff.mp h

/-! ## Words written out from the spec -/

/-- Settles O1: the six words are encodings as they stand, and the two checksum bytes of each frame are
the trailer of its body. -/
theorem writtenOutWordsDecode : Obligations.WrittenOutWordsDecode := by
  have operation {w : BitVec 10} {i : Instr} (h : encode i = .hop w) : decode (.hop w) = .ok i :=
    decode_ok_iff.mpr ⟨h, wellFormed_of_encode_hop h⟩
  exact ⟨operation rfl, operation rfl, operation rfl, operation rfl, operation rfl, operation rfl,
    decode_ok_iff.mpr ⟨by decide +kernel, rfl⟩, decode_ok_iff.mpr ⟨by decide +kernel, rfl⟩,
    decode_ok_iff.mpr ⟨by decide +kernel, rfl⟩⟩

end Sys2Proof.Machine
end

section
/-! The header word of a request (30_encoding.md R91): its last byte is the command code, and every row
of the opcode table compares that byte in full, so a row it matches is the command's. -/

namespace Sys2Proof.Machine

open Sys2Proof

/-- The header word of a request with the length byte `len` (30_encoding.md R70, R91). -/
def requestHeader (len code : Byte) : BitVec 32 := 0x0203#16 ++ len ++ code

theorem headerWord_buildReq (code : Byte) (p : Bytes) :
    headerWord (buildReq code p) = requestHeader (BitVec.ofNat 8 (6 + p.length)) code := by
  have hstart : (0x0203#16 : BitVec (8 + 8)) = 0x02#8 ++ 0x03#8 := rfl
  rw [requestHeader, hstart]
  rfl

/-- No row masks a bit of the code byte, and each row's code is its own command's. -/
theorem headerRows_code : ∀ r ∈ headerRows,
    r.mask.extractLsb' 0 8 = 0xFF#8 ∧ wireCode r.instr = some (r.value.extractLsb' 0 8) := by
  decide

/-- A row that the header word of a command matches is that command's. -/
theorem instr_of_hits {i : Instr} {len code : Byte} {r : HeaderRow} (hc : wireCode i = some code)
    (hr : r ∈ headerRows) (hh : r.hits (requestHeader len code) = true) : r.instr = i := by
  obtain ⟨hm, hv⟩ := headerRows_code r hr
  have hbits : requestHeader len code &&& r.mask = r.value := by simpa [HeaderRow.hits] using hh
  have hcode : r.value.extractLsb' 0 8 = code := by
    rw [← hbits, BitVec.extractLsb'_and, hm, requestHeader, BitVec.extractLsb'_append_eq_right]
    exact BitVec.and_allOnes
  rw [hcode] at hv
  exact Option.some.inj ((decodeWireCode_wireCode hv).symm.trans (decodeWireCode_wireCode hc))

/-- The mask of the raw commands leaves the length byte out (30_encoding.md R91). -/
theorem requestHeader_and_rawMask (len code : Byte) :
    requestHeader len code &&& 0xFFFF00FF#32 = requestHeader 0x00#8 code := by
  have hmask : (0xFFFF00FF#32 : BitVec (16 + 8 + 8)) = 0xFFFF#16 ++ 0x00#8 ++ 0xFF#8 := rfl
  unfold requestHeader
  rw [hmask, BitVec.and_append, BitVec.and_append, BitVec.and_zero,
    show code &&& 0xFF#8 = code from BitVec.and_allOnes]
  rfl

theorem headerRows_raw : ∀ i ∈ rawCommands, ∀ code ∈ wireCode i,
    ⟨0xFFFF00FF#32, requestHeader 0x00#8 code, i⟩ ∈ headerRows := by
  decide

theorem headerRows_plain : ∀ i ∈ plainCommands, ∀ code ∈ wireCode i,
    ⟨0xFFFFFFFF#32, requestHeader 0x06#8 code, i⟩ ∈ headerRows := by
  decide

/-- A command with a request of an admitted length has a row that its header word matches. -/
theorem exists_row_hits {i : Instr} {code : Byte} {n : Nat} (hc : wireCode i = some code)
    (ha : formatAdmits i n = true) :
    ∃ r ∈ headerRows, r.hits (requestHeader (BitVec.ofNat 8 (6 + n)) code) = true := by
  have fixed (h : BitVec 32) : HeaderRow.hits ⟨0xFFFFFFFF#32, h, i⟩ h = true := by
    simpa [HeaderRow.hits] using BitVec.and_allOnes (x := h)
  unfold formatAdmits at ha
  split at ha
  · next hi =>
    exact ⟨_, headerRows_raw i hi code hc, by simp [HeaderRow.hits, requestHeader_and_rawMask]⟩
  split at ha
  · next hi =>
    obtain rfl : n = 0 := by simpa using ha
    exact ⟨_, headerRows_plain i hi code hc, fixed _⟩
  split at ha
  · next hi =>
    subst hi
    cases hc
    obtain rfl : n = 3 := by simpa using ha
    exact ⟨⟨0xFFFFFFFF#32, requestHeader 0x09#8 0x32#8, .setSecurity⟩, by decide, fixed _⟩
  split at ha
  · next hi =>
    subst hi
    cases hc
    obtain rfl : n = 6 := by simpa using ha
    exact ⟨⟨0xFFFFFFFF#32, requestHeader 0x0C#8 0x34#8, .enable⟩, by decide, fixed _⟩
  · cases ha

/-- The search finds the command where some row matches, since every row that matches is its own. -/
theorem decodeHeader_of_row {h : BitVec 32} {i : Instr} {r : HeaderRow} (hr : r ∈ headerRows)
    (hh : r.hits h = true) (hi : ∀ q ∈ headerRows, q.hits h = true → q.instr = i) :
    decodeHeader h = some i := by
  unfold decodeHeader
  split
  · next q hq => rw [hi q (List.mem_of_find?_eq_some hq) (by simpa using List.find?_some hq)]
  · next hn => exact absurd hh (List.find?_eq_none.mp hn r hr)

/-- Settles O4: the length byte chooses a row, and the code byte admits no other command's. -/
theorem requestHeaderMatchesItsRowOnly : Obligations.RequestHeaderMatchesItsRowOnly := by
  intro i code p hc ha
  rw [headerWord_buildReq]
  obtain ⟨r, hr, hh⟩ := exists_row_hits hc ha
  have hi := fun q hq => instr_of_hits (r := q) (len := BitVec.ofNat 8 (6 + p.length)) hc hq
  exact ⟨decodeHeader_of_row hr hh hi, hi⟩

end Sys2Proof.Machine
end

section
/-! Two places where the machine decodes: a reserved word in HOP is refused (30_encoding.md R85), and a
6-byte frame with a control echo is that control reply (R86). -/

namespace Sys2Proof.Machine

open Sys2Proof

/-- A reserved word names no operation (30_encoding.md R85). -/
theorem fetchOperation_reserved {s : State} {w : BitVec 10} (hw : s.hop = some w)
    (hr : ∀ i : Instr, encode i ≠ .hop w) : fetchOperation s = .refused (.reservedOperation w) := by
  unfold fetchOperation
  simp only [hw]
  cases hd : decodeHop w with
  | ok i => exact absurd (decodeHop_ok_iff.mp hd) (hr i)
  | error e => rfl

theorem blockStep_fetchRefused {s : State} {r : Refusal} (hp : s.phase = .idle)
    (hq : s.request = true) (hf : fetchOperation s = .refused r) : blockStep s = .refused r := by
  simp [blockStep, hp, hq, hf]

/-- Settles O5: whatever HOP decodes to has HOP as its word, so a reserved word is not fetched. -/
theorem reservedWordIsRefused : Obligations.ReservedWordIsRefused := by
  intro s w hs hp hq hw hr
  rw [step_of_noSchedule hs]
  exact blockStep_fetchRefused hp hq (fetchOperation_reserved hw hr)

/-- PARSE of a sealed frame is the meaning of its class, whatever command is in progress. -/
theorem step_parse_sealFrame {s : State} {len echo : Byte} {p : Bytes} (hs : s.schedule = [])
    (hp : s.phase = .parse) (hf : memReadBytes s.rx 0 s.rxLen = some (sealFrame len echo p)) :
    step s = exec (classOf len echo p) s := by
  rw [step_of_noSchedule hs]
  simp only [blockStep, hp, fetchResponse, hf, decodeFrame_sealFrame]

theorem whenPhase_at {p : Phase} {s : State} (hp : s.phase = p) (k : State → Result) :
    whenPhase p k s = k s := if_pos hp

/-- Settles O42: the three echoes are the three control classes. -/
theorem echoCollisionIgnoresTheCommand : Obligations.EchoCollisionIgnoresTheCommand := by
  intro s len hs hp
  have reply (echo : Byte) (k : State → Result)
      (hk : exec (classOf len echo []) s = whenPhase .parse k s)
      (hf : memReadBytes s.rx 0 s.rxLen = some (sealFrame len echo [])) : step s = k s := by
    rw [step_parse_sealFrame hs hp hf, hk, whenPhase_at hp]
  exact ⟨reply 0x30#8 (parsedFailure .illegalCommand) rfl,
    reply 0xFF#8 (parsedFailure .deviceNack) rfl, reply 0x00#8 (parsedAs true .decode) rfl⟩

end Sys2Proof.Machine
end

section
/-! The checksum (40_checksum.md): CRC16 is linear (R106), its bit-serial form agrees with it (R105), and a
sequence's own trailer is the only one after it that gives 0 (R104). -/

namespace Sys2Proof.Machine

open Sys2Proof

/-! ## Linearity -/

/-- One byte step is linear in the register and the byte together (40_checksum.md R106). -/
theorem crcByte_xor (c d : BitVec 16) (x y : Byte) :
    crcByte (c ^^^ d) (x ^^^ y) = crcByte c x ^^^ crcByte d y := by
  have swap : c ^^^ d ^^^ (x ^^^ y).setWidth 16 = c ^^^ x.setWidth 16 ^^^ (d ^^^ y.setWidth 16) := by
    rw [BitVec.setWidth_xor]
    ac_rfl
  rw [crcByte, swap, crcShifts_xor, ← crcByte, ← crcByte]

theorem crcRun_zipWith_xor {a b : Bytes} (h : a.length = b.length) (c d : BitVec 16) :
    crcRun (c ^^^ d) (List.zipWith (fun x y => x ^^^ y) a b) = crcRun c a ^^^ crcRun d b := by
  induction a generalizing b c d with
  | nil =>
    obtain rfl := List.length_eq_zero_iff.mp h.symm
    rfl
  | cons x a ih =>
    cases b with
    | nil => cases h
    | cons y b =>
      rw [List.zipWith_cons_cons, crcRun, crcByte_xor, ih (Nat.succ.inj h)]
      rfl

/-- Settles O7: the start value 0 is the XOR of two start values 0, and every byte step is linear. -/
theorem checksumLinear : Obligations.ChecksumLinear :=
  fun _ _ h => crcRun_zipWith_xor h 0x0000#16 0x0000#16

/-! ## The bit-serial form -/

/-- XORing all of `v` in before a shift is taking its bit 0 in the shift and XORing in the rest after
it: the bits reach bit 0 one per shift (40_checksum.md R105). -/
theorem crcShift_xor_eq_crcSerialBit (c v : BitVec 16) :
    crcShift (c ^^^ v) = crcSerialBit c (v.getLsbD 0) ^^^ (v >>> 1) := by
  rw [crcShift, crcSerialBit, BitVec.getLsbD_xor, BitVec.ushiftRight_xor_distrib]
  split
  · ac_rfl
  · rfl

/-- After `n` shifts the low `n` bits of `v` are taken and the others have moved down by `n`. -/
theorem crcShifts_xor_eq_foldl (n : Nat) (c v : BitVec 16) :
    crcShifts n (c ^^^ v) =
      ((List.range n).map v.getLsbD).foldl crcSerialBit c ^^^ (v >>> n) := by
  induction n generalizing c v with
  | zero => simp [crcShifts]
  | succ n ih =>
    have hbits : v.getLsbD ∘ Nat.succ = (v >>> 1).getLsbD := by
      funext i
      simp [Nat.add_comm]
    rw [crcShifts, crcShift_xor_eq_crcSerialBit, ih, List.range_succ_eq_map, List.map_cons,
      List.map_map, hbits, List.foldl_cons, ← BitVec.shiftRight_add, Nat.add_comm 1 n]

/-- One byte step is eight steps of one bit (40_checksum.md R105). -/
theorem crcByte_eq_foldl (c : BitVec 16) (b : Byte) :
    crcByte c b = ((List.range 8).map b.getLsbD).foldl crcSerialBit c := by
  have hlow : (List.range 8).map (b.setWidth 16).getLsbD = (List.range 8).map b.getLsbD := by
    refine List.map_congr_left fun i hi => ?_
    have := List.mem_range.mp hi
    simp; omega
  have hhigh : b.setWidth 16 >>> 8 = 0#16 := by
    apply BitVec.eq_of_getLsbD_eq
    intro i hi
    simp
  rw [crcByte, crcShifts_xor_eq_foldl, hlow, hhigh, BitVec.xor_zero]

theorem foldl_serialBits (c : BitVec 16) (s : Bytes) :
    (serialBits s).foldl crcSerialBit c = crcRun c s := by
  induction s generalizing c with
  | nil => rfl
  | cons b s ih =>
    have hcons : serialBits (b :: s) = (List.range 8).map b.getLsbD ++ serialBits s :=
      List.flatMap_cons
    rw [hcons, List.foldl_append, ← crcByte_eq_foldl, ih, crcRun]

/-- Settles O8: both forms start at 0 and agree byte by byte. -/
theorem checksumBitSerial : Obligations.ChecksumBitSerial :=
  fun s => foldl_serialBits 0x0000#16 s

/-! ## The residue -/

/-- Bit 15 of the polynomial is 1, so a shift tells by bit 15 whether it XORed it in. -/
theorem crcShift_msb (c : BitVec 16) : (crcShift c).msb = c.getLsbD 0 := by
  have hpoly : (0x8408#16).msb = true := by decide
  rw [crcShift_eq, BitVec.msb_xor]
  cases c.getLsbD 0 <;> simp [hpoly]

theorem crcShift_of_even {c : BitVec 16} (hc : c.getLsbD 0 = false) : crcShift c = c >>> 1 := by
  rw [crcShift, hc]
  rfl

/-- A shift can be undone: where it leaves bit 15 clear it only moved the register. -/
theorem crcShift_eq_iff {c d : BitVec 16} (hd : d.msb = false) : crcShift c = d ↔ c = d <<< 1 := by
  constructor
  · rintro rfl
    have hc : c.getLsbD 0 = false := by rw [← crcShift_msb, hd]
    rw [crcShift_of_even hc]
    apply BitVec.eq_of_getLsbD_eq
    intro i hi
    cases i with
    | zero => simpa using hc
    | succ i => simp [hi, Nat.add_comm]
  · rintro rfl
    rw [crcShift_of_even (by simp)]
    apply BitVec.eq_of_toNat_eq
    have := BitVec.msb_eq_false_iff_two_mul_lt.mp hd
    simp [Nat.shiftLeft_eq, Nat.shiftRight_eq_div_pow]; omega

/-- `n` shifts that leave the upper `n` bits clear shifted out no 1. -/
theorem crcShifts_eq_iff {n : Nat} {c d : BitVec 16} (hd : d.toNat * 2 ^ n < 2 ^ 16) :
    crcShifts n c = d ↔ c = d <<< n := by
  induction n generalizing c with
  | zero => simp [crcShifts]
  | succ n ih =>
    have hn : d.toNat * 2 ^ n < 2 ^ 15 := by rw [Nat.pow_succ, ← Nat.mul_assoc] at hd; omega
    have hmsb : (d <<< n).msb = false := by
      rw [BitVec.msb_eq_false_iff_two_mul_lt, BitVec.toNat_shiftLeft, Nat.shiftLeft_eq]
      omega
    rw [crcShifts, ih (hn.trans (by decide)), crcShift_eq_iff hmsb, BitVec.shiftLeft_add]

/-- A 16-bit value is its two bytes (00_scope.md section 5.1). -/
theorem eq_append_iff {c : BitVec 16} {a b : Byte} : c = b ++ a ↔ a = lo8 c ∧ b = hi8 c := by
  constructor
  · rintro rfl
    exact ⟨BitVec.extractLsb'_append_eq_right.symm, BitVec.extractLsb'_append_eq_left.symm⟩
  · rintro ⟨rfl, rfl⟩
    exact (BitVec.extractLsb'_append_extractLsb' (w := 8) (len := 8)).symm

theorem setWidth_eq_zero_append (b : Byte) : b.setWidth 16 = 0x00#8 ++ b :=
  BitVec.setWidth_eq_append (by decide)

theorem setWidth_shiftLeft_eq_append (b : Byte) : b.setWidth 16 <<< 8 = b ++ 0x00#8 := by
  simpa using (BitVec.setWidth_append_eq_shiftLeft_setWidth_or
    (b := b) (b' := 0x00#8) (w'' := 16)).symm

/-- A byte step leaves only a byte `b` exactly when the byte taken clears the low byte and `b` is the
high one (40_checksum.md R104). -/
theorem crcByte_eq_setWidth_iff {c : BitVec 16} {a b : Byte} :
    crcByte c a = b.setWidth 16 ↔ c = b ++ a := by
  have hb : (b.setWidth 16).toNat * 2 ^ 8 < 2 ^ 16 := by
    have := b.isLt
    simp; omega
  have hpair : b.setWidth 16 <<< 8 ^^^ a.setWidth 16 = b ++ a := by
    rw [setWidth_shiftLeft_eq_append, setWidth_eq_zero_append, BitVec.xor_append, BitVec.xor_zero,
      BitVec.zero_xor]
  rw [crcByte, crcShifts_eq_iff hb, xor_eq_iff_left_eq, hpair]

/-- Two bytes after a sequence give 0 exactly when they are its trailer: the residue test and the
comparison accept the same frames (40_checksum.md R104). -/
theorem crc16_append_pair_eq_zero_iff {s : Bytes} {a b : Byte} :
    crc16 (s ++ [a, b]) = 0x0000#16 ↔ [a, b] = crcTrailer s := by
  calc crc16 (s ++ [a, b]) = 0x0000#16
    _ ↔ crcByte (crcByte (crc16 s) a) b = (0x00#8).setWidth 16 := by
      rw [crc16, crcRun_append]; rfl
    _ ↔ crcByte (crc16 s) a = b.setWidth 16 := by
      rw [crcByte_eq_setWidth_iff, setWidth_eq_zero_append]
    _ ↔ crc16 s = b ++ a := crcByte_eq_setWidth_iff
    _ ↔ [a, b] = crcTrailer s := by
      rw [eq_append_iff, crcTrailer, List.cons.injEq, List.cons.injEq]
      simp

/-- Settles O6: the two bytes that give 0 are the trailer. -/
theorem checksumResidue : Obligations.ChecksumResidue := by
  intro s
  refine ⟨crc16_append_pair_eq_zero_iff.mpr rfl, fun a b h => ?_⟩
  simpa [crcTrailer, lo8, hi8] using crc16_append_pair_eq_zero_iff.mp h

end Sys2Proof.Machine
end

section
/-! BitsetCodec (41_bitset.md): BSENC puts every index at its bit (R110), fails on an index above 23
(R111), and is inverse to BSDEC (R114). -/

namespace Sys2Proof.Machine

open Sys2Proof

/-! ## The bit of an index -/

/-- Index `t` in a mask of three bytes: bit `t mod 8` of byte `2 − t div 8` (41_bitset.md R110). -/
def maskBit (m : Bytes) (t : Nat) : Bool := (m.getD (2 - t / 8) 0x00#8).getLsbD (t % 8)

/-- One turn of BSENC's loop sets the bit of its index and no other. -/
theorem maskBit_bsSetIndex {m : Bytes} {x : Byte} {t : Nat} (hm : m.length = 3)
    (hx : x.toNat ≤ 23) (ht : t < 24) :
    maskBit (bsSetIndex m x) t = (maskBit m t || decide (x.toNat = t)) := by
  have hbyte : (23 - x.toNat) / 8 = 2 - x.toNat / 8 := by omega
  have hbit : 7 - (23 - x.toNat) % 8 = x.toNat % 8 := by omega
  have hin : 2 - t / 8 < m.length := by omega
  simp only [maskBit, bsSetIndex, hbyte, hbit, List.getD_eq_getElem?_getD, List.getElem?_modify,
    List.getElem?_eq_getElem hin, Option.map_eq_map, Option.map_some, Option.getD_some]
  by_cases hsame : 2 - x.toNat / 8 = 2 - t / 8
  · have hiff : t % 8 = x.toNat % 8 ↔ x.toNat = t := by omega
    simp [hsame, ← BitVec.twoPow_eq, hiff, Nat.mod_lt]
  · have hne : x.toNat ≠ t := by rintro rfl; exact hsame rfl
    simp [hsame, hne]

theorem length_bsSetIndex (m : Bytes) (x : Byte) : (bsSetIndex m x).length = m.length := by
  simp [bsSetIndex]

/-- The loop sets the bits of the indices it meets, whatever their order and repeats. -/
theorem maskBit_foldl_bsSetIndex {l m : Bytes} {t : Nat} (hm : m.length = 3)
    (hl : ∀ x ∈ l, x.toNat ≤ 23) (ht : t < 24) :
    maskBit (l.foldl bsSetIndex m) t = true ↔ maskBit m t = true ∨ ∃ x ∈ l, x.toNat = t := by
  induction l generalizing m with
  | nil => simp
  | cons x l ih =>
    rw [List.forall_mem_cons] at hl
    rw [List.foldl_cons, ih ((length_bsSetIndex m x).trans hm) hl.2, maskBit_bsSetIndex hm hl.1 ht]
    simp [or_assoc]

/-! ## BSENC -/

theorem bsenc_of_le {l : Bytes} (h : ∀ t ∈ l, t.toNat ≤ 23) :
    bsenc l = .ok (l.foldl bsSetIndex [0x00#8, 0x00#8, 0x00#8]) :=
  if_pos (by simpa using h)

theorem bsenc_of_gt {l : Bytes} (h : ∃ t ∈ l, 23 < t.toNat) : bsenc l = .error .invalidIndex :=
  if_neg (by simpa using h)

/-- A mask that BSENC gives comes from indices at most 23. -/
theorem le_of_bsenc_ok {l m : Bytes} (h : bsenc l = .ok m) : ∀ t ∈ l, t.toNat ≤ 23 := by
  by_contra hgt
  rw [bsenc_of_gt (by simpa using hgt)] at h
  cases h

/-- The bits of an encoded list are its entries (41_bitset.md R110). -/
theorem maskBit_of_bsenc {l m : Bytes} {t : Nat} (h : bsenc l = .ok m) (ht : t < 24) :
    maskBit m t = true ↔ ∃ x ∈ l, x.toNat = t := by
  have hl := le_of_bsenc_ok h
  rw [bsenc_of_le hl] at h
  injection h with h
  have hzero : maskBit [0x00#8, 0x00#8, 0x00#8] t = false := by
    revert t; decide
  rw [← h, maskBit_foldl_bsSetIndex rfl hl ht, hzero]
  simp

/-- Settles O9, by induction on the index list. -/
theorem bitsetEncodePlacesEachIndex : Obligations.BitsetEncodePlacesEachIndex := by
  refine fun l => ⟨bsenc_of_gt, fun h => ?_⟩
  have hok := bsenc_of_le h
  exact ⟨_, hok, bsenc_length hok, fun t ht => maskBit_of_bsenc hok ht⟩

/-! ## BSDEC -/

/-- Register form keeps index `t` in bit `t` (41_bitset.md R113). -/
theorem bsdec_getLsbD {t : Nat} (m0 m1 m2 : Byte) (ht : t < 24) :
    (bsdec m0 m1 m2).getLsbD t = maskBit [m0, m1, m2] t := by
  rw [bsdec, BitVec.getLsbD_append, BitVec.getLsbD_append, maskBit]
  obtain h | h | h : t / 8 = 0 ∨ t / 8 = 1 ∨ t / 8 = 2 := by omega
  · have h8 : t < 8 := by omega
    simp [h, h8, Nat.mod_eq_of_lt h8]
  · have hbit : t % 8 = t - 8 := by omega
    simp [h, hbit, show ¬ t < 8 by omega, show t - 8 < 8 by omega]
  · have hbit : t % 8 = t - 8 - 8 := by omega
    simp [h, hbit, show ¬ t < 8 by omega, show ¬ t - 8 < 8 by omega]

theorem bitVec_append_inj {v w : Nat} {x x' : BitVec v} {y y' : BitVec w} (h : x ++ y = x' ++ y') :
    x = x' ∧ y = y' := by
  constructor
  · simpa [BitVec.extractLsb'_append_eq_left] using congrArg (BitVec.extractLsb' w v) h
  · simpa [BitVec.extractLsb'_append_eq_right] using congrArg (BitVec.extractLsb' 0 w) h

/-- Two masks with the same register form are the same bytes. -/
theorem bsdec_injective {a b c a' b' c' : Byte} (h : bsdec a b c = bsdec a' b' c') :
    a = a' ∧ b = b' ∧ c = c' := by
  obtain ⟨hab, hc⟩ := bitVec_append_inj h
  obtain ⟨ha, hb⟩ := bitVec_append_inj hab
  exact ⟨ha, hb, hc⟩

theorem exists_mem_bsIndices {m : BitVec 24} {t : Nat} (ht : t < 24) :
    (∃ x ∈ bsIndices m, x.toNat = t) ↔ m.getLsbD t = true := by
  constructor
  · rintro ⟨x, hx, rfl⟩
    obtain ⟨k, hk, rfl⟩ := List.mem_map.mp hx
    obtain ⟨hlt, hbit⟩ := List.mem_filter.mp hk
    rw [List.mem_range] at hlt
    rwa [BitVec.toNat_ofNat, Nat.mod_eq_of_lt (by omega)]
  · intro hbit
    refine ⟨BitVec.ofNat 8 t, List.mem_map_of_mem (List.mem_filter.mpr ⟨?_, hbit⟩), ?_⟩
    · exact List.mem_range.mpr ht
    · rw [BitVec.toNat_ofNat, Nat.mod_eq_of_lt (by omega)]

/-- The members of a set in register form are indices at most 23. -/
theorem bsIndices_le (m : BitVec 24) : ∀ x ∈ bsIndices m, x.toNat ≤ 23 := by
  intro x hx
  obtain ⟨k, hk, rfl⟩ := List.mem_map.mp hx
  have hlt := List.mem_range.mp (List.mem_filter.mp hk).1
  rw [BitVec.toNat_ofNat, Nat.mod_eq_of_lt (by omega)]
  omega

/-- Decoding an encoded list gives the set of its entries (41_bitset.md R114). -/
theorem bsdec_of_bsenc {l : Bytes} {m0 m1 m2 : Byte} {t : Nat} (h : bsenc l = .ok [m0, m1, m2])
    (ht : t < 24) : (bsdec m0 m1 m2).getLsbD t = true ↔ ∃ x ∈ l, x.toNat = t := by
  rw [bsdec_getLsbD m0 m1 m2 ht, maskBit_of_bsenc h ht]

/-- Encoding a decoded mask gives the mask back (41_bitset.md R114): what it gives decodes to the same
set. -/
theorem bsenc_bsIndices_bsdec (m0 m1 m2 : Byte) :
    bsenc (bsIndices (bsdec m0 m1 m2)) = .ok [m0, m1, m2] := by
  have hok := bsenc_of_le (bsIndices_le (bsdec m0 m1 m2))
  obtain ⟨a, b, c, hm⟩ := List.length_eq_three.mp (bsenc_length hok)
  rw [hm] at hok
  have hset : bsdec a b c = bsdec m0 m1 m2 := by
    refine BitVec.eq_of_getLsbD_eq fun t ht => Bool.eq_iff_iff.mpr ?_
    rw [bsdec_of_bsenc hok ht, exists_mem_bsIndices ht]
  obtain ⟨rfl, rfl, rfl⟩ := bsdec_injective hset
  exact hok

/-- Settles O10: both laws compare the masks bit by bit. -/
theorem bitsetInverse : Obligations.BitsetInverse :=
  ⟨fun _ _ _ _ h _ ht => bsdec_of_bsenc h ht, bsenc_bsIndices_bsdec⟩

end Sys2Proof.Machine
end

section
/-! Index operands in ACCEPT (43_reader.md R141; 44_commands.md R173, R175): an index above 23 ends the
operation before anything is sent (41_bitset.md R111). -/

namespace Sys2Proof.Machine

open Sys2Proof

/-! ## The encode hooks of the mask commands -/

theorem encodeMask_of_bsenc_ok {l m : Bytes} (r : Reg) (h : bsenc l = .ok m) :
    encodeMask r (some l) = .value m := by
  simp [encodeMask, h]

theorem encodeMask_of_gt {l : Bytes} (r : Reg) (h : ∃ t ∈ l, 23 < t.toNat) :
    encodeMask r (some l) = .raise .invalidIndex := by
  simp [encodeMask, bsenc_of_gt h]

/-- ENABLE fails with OP_SETA's mask before OP_SETB is looked at (log 1). -/
theorem encodeEnable_of_setA_raise {s : State} {f : Failure}
    (ha : encodeMask .opSetA s.opSetA = .raise f) : encodeEnable s = .raise f := by
  simp [encodeEnable, ha]

theorem encodeEnable_of_setB_raise {s : State} {ma : Bytes} {f : Failure}
    (ha : encodeMask .opSetA s.opSetA = .value ma) (hb : encodeMask .opSetB s.opSetB = .raise f) :
    encodeEnable s = .raise f := by
  simp [encodeEnable, ha, hb]

/-- An index above 23 in OP_SETA fails the encode hook of either mask command. -/
theorem encodeHook_of_setA_gt {i : Instr} {s : State} {la : Bytes} (hi : i ∈ maskCommands)
    (ha : s.opSetA = some la) (h : ∃ t ∈ la, 23 < t.toNat) :
    encodeHook i s = .raise .invalidIndex := by
  have hmask : encodeMask .opSetA s.opSetA = .raise .invalidIndex := ha ▸ encodeMask_of_gt _ h
  simp only [maskCommands, List.mem_cons, List.not_mem_nil, or_false] at hi
  obtain rfl | rfl := hi
  · exact hmask
  · exact encodeEnable_of_setA_raise hmask

/-! ## A failure in ACCEPT -/

/-- An operation that fails in ACCEPT leaves PHASE at IDLE and only the result registers changed
(43_reader.md R141; 60_exceptions.md R214). -/
theorem raise_beginOperation_of_idle {s : State} (hp : s.phase = .idle) (f : Failure) :
    s.beginOperation.raise f =
      { s with resErr := some (failureCode f), resValid := true, res := Results.noValue } := by
  cases s
  cases hp
  rfl

theorem acceptStep_of_raise {code : Byte} {enc : State → Hook Bytes} {s : State} {f : Failure}
    (hl : s.linkOpen = true) (he : enc s = .raise f) :
    acceptStep code enc s = .next (s.beginOperation.raise f) := by
  simp [acceptStep, hl, he]

/-- On an open link the failure of a command's encode hook is the operation's. -/
theorem exec_of_encodeHook_raise {i : Instr} {s : State} {f : Failure} (hi : i ∈ wireCommands)
    (hp : s.phase = .idle) (hl : s.linkOpen = true) (he : encodeHook i s = .raise f) :
    exec i s = .next { s with
      resErr := some (failureCode f), resValid := true, res := Results.noValue } := by
  obtain ⟨code, hc⟩ := mem_wireCommands.mp hi
  rw [exec_wireCommand hc, wireCommand_idle hp, acceptStep_of_raise hl he,
    raise_beginOperation_of_idle hp]

/-- Settles O18: the hook that looks at the index fails, and ACCEPT ends with its failure. -/
theorem indexAbove23IsInvalidIndex : Obligations.IndexAbove23IsInvalidIndex := by
  intro s la hp hl ha
  constructor
  · intro hgt i hi
    have hwire : i ∈ wireCommands := List.mem_append_right _ hi
    exact exec_of_encodeHook_raise hwire hp hl (encodeHook_of_setA_gt hi ha hgt)
  · intro lb hle hb hgt
    refine exec_of_encodeHook_raise (i := .enable) (f := .invalidIndex) (by decide) hp hl ?_
    exact encodeEnable_of_setB_raise (ha ▸ encodeMask_of_bsenc_ok _ (bsenc_of_le hle))
      (hb ▸ encodeMask_of_gt _ hgt)

end Sys2Proof.Machine
end

section
/-! FrameCodec (42_frame.md): the length law of BUILDREQ (R121), PARSERSP's checks in their order (R124,
R125), the frames it accepts (R126, R127), and how the two failing control replies end an operation. -/

namespace Sys2Proof.Machine

open Sys2Proof

/-! ## The checks -/

theorem parseRsp_of_decodeFrame_error {s : Bytes} {f : Failure} (h : decodeFrame s = .error f) :
    parseRsp s = .fail f := by
  simp only [parseRsp, h]

/-- Check (a) comes first, on a sequence shorter than 2 bytes too (42_frame.md R124). -/
theorem decodeFrame_of_start_ne {s : Bytes} (h : s.take 2 ≠ [0x02#8, 0x03#8]) :
    decodeFrame s = .error .frameFormatError := by
  simp only [decodeFrame, if_pos h, ite_self]

/-- Check (b) comes next; a right start is 2 bytes long (42_frame.md R125). -/
theorem decodeFrame_of_trailer_ne {s : Bytes} (hstart : s.take 2 = [0x02#8, 0x03#8])
    (h : s.drop (s.length - 2) ≠ crcTrailer (s.take (s.length - 2))) :
    decodeFrame s = .error .checksumMismatch := by
  have hlen : ¬ s.length < 2 := by
    have := congrArg List.length hstart
    simp at this
    omega
  simp only [decodeFrame, if_neg hlen, if_neg (not_not_intro hstart), if_pos h]

/-- Settles O13: each check stands before all that follows it. -/
theorem parserChecksInOrder : Obligations.ParserChecksInOrder := fun _ =>
  ⟨fun h => parseRsp_of_decodeFrame_error (decodeFrame_of_start_ne h),
    fun hstart h => parseRsp_of_decodeFrame_error (decodeFrame_of_trailer_ne hstart h)⟩

/-! ## The outcomes by class -/

theorem parseRsp_eq_ack_iff {s : Bytes} :
    parseRsp s = .ack ↔ ∃ len, decodeFrame s = .ok (.rspAck len) := by
  unfold parseRsp
  cases decodeFrame s with
  | error f => simp
  | ok i => cases i <;> simp

theorem parseRsp_eq_data_iff {s p : Bytes} :
    parseRsp s = .data p ↔ ∃ len echo, decodeFrame s = .ok (.rspData len echo p) := by
  unfold parseRsp
  cases decodeFrame s with
  | error f => simp
  | ok i => cases i <;> simp

/-- DeviceNack comes from a NACK frame alone: the checks fail by other names. -/
theorem parseRsp_eq_deviceNack_iff {s : Bytes} :
    parseRsp s = .fail .deviceNack ↔ ∃ len, decodeFrame s = .ok (.rspNack len) := by
  unfold parseRsp
  cases h : decodeFrame s with
  | error f => obtain rfl | rfl := decodeFrame_error h <;> simp
  | ok i => cases i <;> simp

/-- IllegalCommand comes from an illegal-command frame alone. -/
theorem parseRsp_eq_illegalCommand_iff {s : Bytes} :
    parseRsp s = .fail .illegalCommand ↔ ∃ len, decodeFrame s = .ok (.rspIllegal len) := by
  unfold parseRsp
  cases h : decodeFrame s with
  | error f => obtain rfl | rfl := decodeFrame_error h <;> simp
  | ok i => cases i <;> simp

/-! ## The frame of a class -/

/-- A well-formed response is decoded from its own frame only. -/
theorem decodeFrame_ok_iff_eq {s f : Bytes} {i : Instr} (hf : encode i = .frame f)
    (hw : i.WellFormed) : decodeFrame s = .ok i ↔ s = f := by
  rw [decodeFrame_ok_iff, hf, and_iff_left hw, Code.frame.injEq, eq_comm]

/-- Past 6 bytes the echo byte of a substantive response may be anything; in 6 it is no control value
(42_frame.md R127). -/
theorem rspData_wellFormed_iff {len echo : Byte} {p : Bytes} :
    (Instr.rspData len echo p).WellFormed ↔
      (p = [] → echo ≠ 0x00#8 ∧ echo ≠ 0xFF#8 ∧ echo ≠ 0x30#8) := by
  cases p with
  | nil => simp [Instr.WellFormed, Instr.wf, isControlEcho, and_assoc]
  | cons b r => simp [Instr.WellFormed, Instr.wf]

theorem decodeFrame_rspData_iff {s p : Bytes} {len echo : Byte} :
    decodeFrame s = .ok (.rspData len echo p) ↔
      s = sealFrame len echo p ∧ (p = [] → echo ≠ 0x00#8 ∧ echo ≠ 0xFF#8 ∧ echo ≠ 0x30#8) := by
  rw [decodeFrame_ok_iff, rspData_wellFormed_iff, encode, Code.frame.injEq, eq_comm]

/-- Settles O14: each outcome is that of one class, and the class is decoded from its frame only. -/
theorem parserAcceptsExactlySealedFrames : Obligations.ParserAcceptsExactlySealedFrames := fun _ =>
  ⟨parseRsp_eq_ack_iff.trans (exists_congr fun _ => decodeFrame_ok_iff_eq rfl rfl),
    parseRsp_eq_deviceNack_iff.trans (exists_congr fun _ => decodeFrame_ok_iff_eq rfl rfl),
    parseRsp_eq_illegalCommand_iff.trans (exists_congr fun _ => decodeFrame_ok_iff_eq rfl rfl),
    fun _ => parseRsp_eq_data_iff.trans (exists₂_congr fun _ _ => decodeFrame_rspData_iff)⟩

/-! ## A built request -/

theorem crc16_sealFrame (len code : Byte) (p : Bytes) : crc16 (sealFrame len code p) = 0x0000#16 :=
  crc16_append_pair_eq_zero_iff.mpr rfl

/-- A sealed frame passes both checks, so it fails as a control reply or not at all. -/
theorem parseRsp_sealFrame_fail {len code : Byte} {p : Bytes} {f : Failure}
    (h : parseRsp (sealFrame len code p) = .fail f) : f = .deviceNack ∨ f = .illegalCommand := by
  rw [parseRsp, decodeFrame_sealFrame] at h
  cases p with
  | nil =>
    simp only [classOf] at h
    split_ifs at h
    · cases h; exact .inl rfl
    · cases h; exact .inr rfl
  | cons b r => cases h

/-- Settles O12: the sum `6 + len(p)` fits the length byte, and the rest holds of every sealed frame. -/
theorem builtRequestLengthLaw : Obligations.BuiltRequestLengthLaw := by
  intro code p hp
  have hlen : (BitVec.ofNat 8 (6 + p.length)).toNat = 6 + p.length := by
    rw [BitVec.toNat_ofNat]
    omega
  exact ⟨sealFrame_length _ _ _, hlen, crc16_sealFrame _ _ _,
    fun h => by simpa using parseRsp_sealFrame_fail h,
    fun h => by simpa using parseRsp_sealFrame_fail h⟩

/-! ## The failing control replies -/

/-- Settles O28: in PARSE either class is the one shared failure entry (60_exceptions.md R210, R212). -/
theorem controlReplyFails : Obligations.ControlReplyFails := by
  intro s len hp
  exact ⟨whenPhase_at hp (parsedFailure .deviceNack), whenPhase_at hp (parsedFailure .illegalCommand)⟩

end Sys2Proof.Machine
end

section
/-! ACCEPT (43_reader.md R141): a closed link ends every wire command, and on an open one the
payload of the encode hook becomes the latched request. -/

namespace Sys2Proof.Machine

open Sys2Proof

/-! ## The step -/

theorem acceptStep_of_closed {code : Byte} {enc : State → Hook Bytes} {s : State}
    (hl : s.linkOpen = false) :
    acceptStep code enc s = .next (s.beginOperation.raise .connectionStateError) := by
  simp [acceptStep, hl]

theorem acceptStep_of_value {code : Byte} {enc : State → Hook Bytes} {s : State} {p : Bytes}
    (hl : s.linkOpen = true) (he : enc s = .value p) :
    acceptStep code enc s = .next (s.beginOperation.latchRequest code p) := by
  simp [acceptStep, hl, he]

/-- On an open link the payload of a command's encode hook is latched as its request. -/
theorem exec_of_encodeHook_value {i : Instr} {code : Byte} {s : State} {p : Bytes}
    (hc : wireCode i = some code) (hp : s.phase = .idle) (hl : s.linkOpen = true)
    (he : encodeHook i s = .value p) :
    exec i s = .next (s.beginOperation.latchRequest code p) := by
  rw [exec_wireCommand hc, wireCommand_idle hp, acceptStep_of_value hl he]

/-! ## The encode hooks -/

theorem encodeHook_of_mem_rawCommands {i : Instr} (hi : i ∈ rawCommands) :
    encodeHook i = encodeRaw := by
  fin_cases hi <;> rfl

theorem encodeHook_of_mem_plainCommands {i : Instr} (hi : i ∈ plainCommands) :
    encodeHook i = encodeNone := by
  fin_cases hi <;> rfl

theorem encodeRaw_of_written {s : State} {n : Byte} {p : Bytes} (hn : s.opRawLen = some n)
    (hmax : n.toNat ≤ 249) (hr : memReadBytes s.opRaw 0 n.toNat = some p) :
    encodeRaw s = .value p := by
  simp [encodeRaw, txPayMax, hn, hmax, hr]

theorem encodeEnable_of_masks {s : State} {ma mb : Bytes}
    (ha : encodeMask .opSetA s.opSetA = .value ma) (hb : encodeMask .opSetB s.opSetB = .value mb) :
    encodeEnable s = .value (ma ++ mb) := by
  simp [encodeEnable, ha, hb]

/-! ## The statements -/

/-- Settles O19: the link is looked at before the operands. -/
theorem closedLinkFailsEveryCommand : Obligations.ClosedLinkFailsEveryCommand := by
  intro i s hi hp hl
  obtain ⟨code, hc⟩ := mem_wireCommands.mp hi
  rw [exec_wireCommand hc, wireCommand_idle hp, acceptStep_of_closed hl,
    raise_beginOperation_of_idle hp]
  rfl

/-- Settles O15: the eight commands share the raw hook, whose payload has OP_RAWLEN bytes. -/
theorem rawCommandsAccept : Obligations.RawCommandsAccept := by
  intro i code n p s hi hc hp hl hn hmax hr
  have he : encodeHook i s = .value p := by
    rw [encodeHook_of_mem_rawCommands hi, encodeRaw_of_written hn hmax hr]
  rw [exec_of_encodeHook_value hc hp hl he, ← memReadBytes_length hr]
  rfl

/-- Settles O16: the four commands share the hook without a payload. -/
theorem plainCommandsAccept : Obligations.PlainCommandsAccept := by
  intro i code s hi hc hp hl
  have he : encodeHook i s = .value [] := by
    rw [encodeHook_of_mem_plainCommands hi, encodeNone]
  exact exec_of_encodeHook_value hc hp hl he

/-- Settles O17: each mask is what BSENC gives for its register. -/
theorem maskCommandsAccept : Obligations.MaskCommandsAccept := by
  intro s la ma hp hl ha hma
  have hmaskA : encodeMask .opSetA s.opSetA = .value ma := ha ▸ encodeMask_of_bsenc_ok _ hma
  refine ⟨exec_of_encodeHook_value (i := .setSecurity) rfl hp hl hmaskA, fun lb mb hb hmb => ?_⟩
  have hmaskB : encodeMask .opSetB s.opSetB = .value mb := hb ▸ encodeMask_of_bsenc_ok _ hmb
  rw [exec_of_encodeHook_value (i := .enable) rfl hp hl (encodeEnable_of_masks hmaskA hmaskB),
    ← List.length_append]
  rfl

end Sys2Proof.Machine
end

section
/-! SEND, RECV and HSACK (43_reader.md R142 to R146, R150, R151): one equation for each answer of
the transport. -/

namespace Sys2Proof.Machine

open Sys2Proof

/-! ## The two writes -/

theorem sendStep_of_ok {s : State} {f : Bytes} {w : Wire}
    (hf : memReadBytes s.tx 0 s.txLen.toNat = some f) (hw : s.wire.twrite f = (true, w)) :
    sendStep s = .next (s.onWire w).startReceive := by
  simp [sendStep, hf, hw]

theorem sendStep_of_err {s : State} {f : Bytes} {w : Wire}
    (hf : memReadBytes s.tx 0 s.txLen.toNat = some f) (hw : s.wire.twrite f = (false, w)) :
    sendStep s = .next ((s.onWire w).raise .transportError) := by
  simp [sendStep, hf, hw]

theorem hsackStep_of_ok {s : State} {w : Wire} (hw : s.wire.twrite ackFrame = (true, w)) :
    hsackStep s = .next ((s.onWire w).goTo .decode) := by
  simp [hsackStep, hw]

theorem hsackStep_of_err {s : State} {w : Wire} (hw : s.wire.twrite ackFrame = (false, w)) :
    hsackStep s = .next ((s.onWire w).raise .transportError) := by
  simp [hsackStep, hw]

/-- The handshake ACK written out (42_frame.md R122). -/
theorem ackFrame_eq : ackFrame = [0x02#8, 0x03#8, 0x06#8, 0x00#8, 0xC2#8, 0x82#8] := by
  decide +kernel

/-! ## The read -/

theorem recvStep_of_limit {s : State} (ha : s.attempt = s.cfg.maxRetry) :
    recvStep s = .next (s.raise .retryExhausted) := by
  simp [recvStep, ha]

theorem recvStep_of_err {s : State} {w : Wire} (ha : s.attempt ≠ s.cfg.maxRetry)
    (hw : s.wire.tread s.cfg.readChunkMax = (none, w)) :
    recvStep s = .next ((s.countAttempt.onWire w).raise .transportError) := by
  simp [recvStep, ha, hw]

/-- The attempt that RECV counts is the room for the chunk that its read returns (43_reader.md
R146). -/
theorem StateInv.chunk_fits {s : State} (hs : StateInv s) (ha : s.attempt ≠ s.cfg.maxRetry)
    {c : Bytes} {w : Wire} (hw : s.wire.tread s.cfg.readChunkMax = (some c, w)) :
    s.rxLen + c.length ≤ s.cfg.rxCap :=
  calc s.rxLen + c.length
    _ ≤ s.attempt * s.cfg.readChunkMax + s.cfg.readChunkMax :=
      Nat.add_le_add hs.rxBound (tread_length hw)
    _ = (s.attempt + 1) * s.cfg.readChunkMax := (Nat.succ_mul _ _).symm
    _ ≤ s.cfg.rxCap := Nat.mul_le_mul_right _ (Nat.lt_of_le_of_ne hs.attempts ha)

theorem recvStep_of_complete {s : State} {c : Bytes} {w : Wire} (ha : s.attempt ≠ s.cfg.maxRetry)
    (hw : s.wire.tread s.cfg.readChunkMax = (some c, w))
    (hroom : s.rxLen + c.length ≤ s.cfg.rxCap)
    (hc : rxComplete ((s.countAttempt.onWire w).appendRx c) = some true) :
    recvStep s = .next (((s.countAttempt.onWire w).appendRx c).goTo .parse) := by
  simp [recvStep, recvChunk, ha, hw, hroom, hc]

theorem recvStep_of_incomplete {s : State} {c : Bytes} {w : Wire}
    (ha : s.attempt ≠ s.cfg.maxRetry) (hw : s.wire.tread s.cfg.readChunkMax = (some c, w))
    (hroom : s.rxLen + c.length ≤ s.cfg.rxCap)
    (hc : rxComplete ((s.countAttempt.onWire w).appendRx c) = some false) :
    recvStep s = .next ((s.countAttempt.onWire w).appendRx c) := by
  simp [recvStep, recvChunk, ha, hw, hroom, hc]

/-! ## The statements -/

/-- Settles O24: TXBUF's frame is given to one write, which has two answers. -/
theorem sendWritesTheRequest : Obligations.SendWritesTheRequest := by
  intro i s f hi hp hf
  obtain ⟨code, hc⟩ := mem_wireCommands.mp hi
  rw [exec_wireCommand hc, wireCommand_send hp]
  exact ⟨fun h => sendStep_of_ok hf (twrite_ok f h), fun k h => sendStep_of_err hf (twrite_err f h)⟩

/-- Settles O30: as SEND, with the frame of R122. -/
theorem handshakeSendsTheAckFrame : Obligations.HandshakeSendsTheAckFrame := by
  intro i s f hi hp hf
  obtain rfl : ackFrame = f := ackFrame_eq.trans hf.symm
  obtain ⟨code, hc⟩ := mem_wireCommands.mp hi
  rw [exec_wireCommand hc, wireCommand_hsack hp]
  exact ⟨fun h => hsackStep_of_ok (twrite_ok _ h), fun k h => hsackStep_of_err (twrite_err _ h)⟩

/-- Settles O25: the limit is tested before the read. -/
theorem retryLimitMakesNoRead : Obligations.RetryLimitMakesNoRead := by
  intro i s hi hp ha
  obtain ⟨code, hc⟩ := mem_wireCommands.mp hi
  rw [exec_wireCommand hc, wireCommand_recv hp]
  exact recvStep_of_limit ha

/-- Settles O26: the chunk fits by the invariant, and the completeness test, which then has an
answer, decides PHASE. -/
theorem receiveAppendsOneChunk : Obligations.ReceiveAppendsOneChunk := by
  intro i s hs hi hp ha
  obtain ⟨code, hc⟩ := mem_wireCommands.mp hi
  rw [exec_wireCommand hc, wireCommand_recv hp]
  refine ⟨fun arrived h => recvStep_of_err ha (tread_err _ h), ?_⟩
  rintro arrived n c h rfl
  have hw := tread_bytes s.cfg.readChunkMax h
  have hroom := hs.chunk_fits ha hw
  obtain hc | hc := rxComplete_some (appendRx_held _ ((hs.countAttempt ha).onWire _).rxHeld)
  · refine ⟨_, recvStep_of_complete ha hw hroom hc, rfl, .inl rfl, ?_⟩
    exact iff_of_true rfl (rxComplete_iff.mp hc)
  · refine ⟨_, recvStep_of_incomplete ha hw hroom hc, rfl, .inr hp, ?_⟩
    refine iff_of_false (by simp [hp]) fun hq => ?_
    simp [rxComplete_iff.mpr hq] at hc

end Sys2Proof.Machine
end

section
/-! PARSE (43_reader.md R147): what a response class does, and how a damaged frame ends the
operation. -/

namespace Sys2Proof.Machine

open Sys2Proof

/-- Everything a response class can do: nothing outside PARSE; in PARSE it classifies the frame, or
it is the shared failure entry (43_reader.md R147; 42_frame.md R126). -/
theorem exec_response_next {i : Instr} {s t : State} (hi : i ∉ wireCommands)
    (ho : i ≠ .openLink) (hc : i ≠ .closeLink) (h : exec i s = .next t) :
    (s.phase ≠ .parse ∧ t = s) ∨
    (s.phase = .parse ∧ ((∃ ctrl p, t = { s with rspCtrl := some ctrl, phase := p }) ∨
      ∃ f, t = s.raise f)) := by
  have classified {ctrl : Bool} {p : Phase} (h : parsedAs ctrl p s = .next t) :
      ∃ ctrl p, t = { s with rspCtrl := some ctrl, phase := p } :=
    ⟨ctrl, p, (Host.Outcome.next.inj h).symm⟩
  have failed {f : Failure} (h : parsedFailure f s = .next t) : ∃ f, t = s.raise f :=
    ⟨f, (Host.Outcome.next.inj h).symm⟩
  cases i with
  | openLink => exact absurd rfl ho
  | closeLink => exact absurd rfl hc
  | rspAck => exact (whenPhase_next h).symm.imp_right (And.imp_right (.inl ∘ classified))
  | rspData => exact (whenPhase_next h).symm.imp_right (And.imp_right (.inl ∘ classified))
  | rspNack => exact (whenPhase_next h).symm.imp_right (And.imp_right (.inr ∘ failed))
  | rspIllegal => exact (whenPhase_next h).symm.imp_right (And.imp_right (.inr ∘ failed))
  | _ => exact absurd (mem_wireCommands.mpr ⟨_, rfl⟩) hi

/-- Settles O29: neither the classification nor the failure entry writes anything else. -/
theorem responseClassFrame : Obligations.ResponseClassFrame := by
  intro i s t hi ho hc h
  obtain ⟨-, rfl⟩ | ⟨hp, ⟨ctrl, p, rfl⟩ | ⟨f, rfl⟩⟩ := exec_response_next hi ho hc h
  · simp
  · simp [hp]
  · simp [hp]

/-- Settles O27: in PARSE the class is the classification. -/
theorem validResponseIsClassified : Obligations.ValidResponseIsClassified := fun _ hp =>
  ⟨fun _ => whenPhase_at hp (parsedAs true .decode),
    fun _ _ _ => whenPhase_at hp (parsedAs false .hsack)⟩

/-- In PARSE a frame that fails a check of the decoder is the shared failure entry. -/
theorem step_parse_of_decodeFrame_error {s : State} {f : Bytes} {e : Failure}
    (hs : s.schedule = []) (hp : s.phase = .parse) (hf : memReadBytes s.rx 0 s.rxLen = some f)
    (he : decodeFrame f = .error e) : step s = .next (s.raise e) := by
  rw [step_of_noSchedule hs, blockStep_parse hp, parseStep_eq hp hf,
    parseRsp_of_decodeFrame_error he]

/-- Settles O41: the two checks in their order (42_frame.md R124, R125). -/
theorem badResponseFails : Obligations.BadResponseFails := by
  intro s f hs hp hf
  exact ⟨fun h => step_parse_of_decodeFrame_error hs hp hf (decodeFrame_of_start_ne h),
    fun hstart h => step_parse_of_decodeFrame_error hs hp hf (decodeFrame_of_trailer_ne hstart h)⟩

end Sys2Proof.Machine
end

section
/-! A step of the machine (43_reader.md R140): where it fetches what it runs, and why a step of an
operation in progress has a next state. -/

namespace Sys2Proof.Machine

open Sys2Proof

/-! ## Fetching -/

theorem blockStep_of_fetchOperation {s : State} {i : Instr} (hp : s.phase = .idle)
    (hr : s.request = true) (hf : fetchOperation s = .value i) :
    blockStep s = exec i s.takeRequest := by
  simp [blockStep, hp, hr, hf]

theorem fetchOperation_of_decodeHop {s : State} {w : BitVec 10} {i : Instr} (hw : s.hop = some w)
    (hd : decodeHop w = .ok i) : fetchOperation s = .value i := by
  simp [fetchOperation, hw, hd]

theorem blockStep_of_decodeFrame {s : State} {f : Bytes} {i : Instr} (hp : s.phase = .parse)
    (hf : memReadBytes s.rx 0 s.rxLen = some f) (hd : decodeFrame f = .ok i) :
    blockStep s = exec i s := by
  simp [blockStep, hp, fetchResponse, hf, hd]

theorem step_block {s : State} {rest : List Turn} (hs : s.schedule = .block :: rest) :
    step s = blockStep { s with schedule := rest } := by
  simp [step, hs]

/-- Settles O40: the three places the machine fetches from, and a scheduled turn of the block. -/
theorem stepRunsTheDecodedInstruction : Obligations.StepRunsTheDecodedInstruction := by
  refine ⟨?_, ?_, ?_, fun s rest hs => step_block hs⟩
  · intro s w i hs hp hr hw hd
    rw [step_of_noSchedule hs]
    exact blockStep_of_fetchOperation hp hr (fetchOperation_of_decodeHop hw hd)
  · intro s f i hs hp hf hd
    rw [step_of_noSchedule hs]
    exact blockStep_of_decodeFrame hp hf (decodeFrame_ok_iff.mpr (decode_ok_iff.mp hd))
  · intro s i code hs hp hi hc
    rw [step_of_noSchedule hs, blockStep_busy hp hc hi]

/-! ## What the steps read is held -/

/-- While an operation is in progress TXBUF holds its request (43_reader.md R141). -/
theorem StateInv.request_held {s : State} (hs : StateInv s) (hp : s.phase ≠ .idle) :
    ∃ f, memReadBytes s.tx 0 s.txLen.toNat = some f := by
  obtain ⟨-, -, i, code, p, -, -, -, hlen, htx⟩ := hs.busy hp
  exact ⟨buildReq code p, hlen ▸ htx⟩

/-- The accumulated bytes are held (20_memory.md R41). -/
theorem StateInv.frame_held {s : State} (hs : StateInv s) :
    ∃ f, memReadBytes s.rx 0 s.rxLen = some f := by
  refine Option.isSome_iff_exists.mp ((memReadBytes_isSome _ _ _).mpr fun a ha => ?_)
  rw [Nat.zero_add]
  exact (hs.rxHeld a).mpr ha

/-- In DECODE the frame is classified, and its payload is a part of it (43_reader.md R148). -/
theorem StateInv.payload_held {s : State} (hs : StateInv s) (hp : s.phase = .decode) :
    ∃ p, PayloadIs s p := by
  have h6 : 6 ≤ s.rxLen := (rxComplete_iff.mp (hs.completed (.inr (.inr hp)))).1
  obtain ⟨f, hf⟩ := hs.frame_held
  obtain ⟨_ | _, hc⟩ := Option.isSome_iff_exists.mp (hs.classified.2 hp)
  · exact ⟨_, .inr ⟨hc, memReadBytes_drop_take hf 4 (s.rxLen - 6) (by omega)⟩⟩
  · exact ⟨[], .inl ⟨hc, rfl⟩⟩

/-! ## The steps past ACCEPT -/

theorem sendStep_progresses {s : State} (hs : StateInv s) (hp : s.phase = .send) :
    ∃ t, sendStep s = .next t := by
  obtain ⟨f, hf⟩ := hs.request_held (by simp [hp])
  obtain ⟨w, hw, -⟩ | ⟨-, w, hw, -⟩ := twrite_cases f s.wire
  · exact ⟨_, sendStep_of_ok hf hw⟩
  · exact ⟨_, sendStep_of_err hf hw⟩

theorem recvStep_progresses {s : State} (hs : StateInv s) : ∃ t, recvStep s = .next t := by
  by_cases ha : s.attempt = s.cfg.maxRetry
  · exact ⟨_, recvStep_of_limit ha⟩
  · obtain ⟨w, hw⟩ | ⟨c, w, hw, -⟩ := tread_cases s.cfg.readChunkMax s.wire
    · exact ⟨_, recvStep_of_err ha hw⟩
    · have hroom := hs.chunk_fits ha hw
      obtain hc | hc := rxComplete_some (appendRx_held c ((hs.countAttempt ha).onWire w).rxHeld)
      · exact ⟨_, recvStep_of_complete ha hw hroom hc⟩
      · exact ⟨_, recvStep_of_incomplete ha hw hroom hc⟩

theorem parseStep_progresses {s : State} (hs : StateInv s) (hp : s.phase = .parse) :
    ∃ t, parseStep s = .next t := by
  obtain ⟨f, hf⟩ := hs.frame_held
  rw [parseStep_eq hp hf]
  split <;> exact ⟨_, rfl⟩

theorem hsackStep_progresses (s : State) : ∃ t, hsackStep s = .next t := by
  obtain ⟨w, hw, -⟩ | ⟨-, w, hw, -⟩ := twrite_cases ackFrame s.wire
  · exact ⟨_, hsackStep_of_ok hw⟩
  · exact ⟨_, hsackStep_of_err hw⟩

theorem decodeStep_progresses {dec : Config → Bytes → Results → Except Failure Results} {s : State}
    (hs : StateInv s) (hp : s.phase = .decode) : ∃ t, decodeStep dec s = .next t := by
  obtain ⟨p, hq⟩ := hs.payload_held hp
  rw [decodeStep_eq hq]
  split <;> exact ⟨_, rfl⟩

/-- Settles O46: what each step reads is held, and a chunk fits in RXBUF. -/
theorem operationInProgressNeverStops : Obligations.OperationInProgressNeverStops := by
  intro s hs hsch hb
  obtain ⟨-, -, i, code, -, hi, hc, -⟩ := hs.busy hb
  rw [step_of_noSchedule hsch, blockStep_busy hb hc hi, exec_wireCommand hi]
  cases hp : s.phase with
  | idle => exact absurd hp hb
  | send => rw [wireCommand_send hp]; exact sendStep_progresses hs hp
  | recv => rw [wireCommand_recv hp]; exact recvStep_progresses hs
  | parse => rw [wireCommand_parse hp]; exact parseStep_progresses hs hp
  | hsack => rw [wireCommand_hsack hp]; exact hsackStep_progresses s
  | decode => rw [wireCommand_decode hp]; exact decodeStep_progresses hs hp

end Sys2Proof.Machine
end

section
/-! XACT (43_reader.md R153) taken apart into what follows the write, what follows the reads and the
handshake, and the transport calls of each part. -/

namespace Sys2Proof.Machine

open Sys2Proof

section
variable (dec : Bytes → Except Failure Results)

/-! ## The parts -/

/-- The end of XACT after a substantive response with payload `p`: the handshake ACK, then the
decode (43_reader.md R150). -/
def xactHandshake (p : Bytes) (w : Wire) : Except Failure Results × Wire :=
  match w.twrite ackFrame with
  | (false, w) => (.error .transportError, w)
  | (true, w) => (dec p, w)

/-- XACT once its reads have accumulated the frame `buf` (43_reader.md R147). -/
def xactReply (buf : Bytes) (w : Wire) : Except Failure Results × Wire :=
  match parseRsp buf with
  | .fail e => (.error e, w)
  | .ack => (dec [], w)
  | .data p => xactHandshake dec p w

/-- XACT with `n` reads left and `buf` accumulated. -/
def xactReceive (c : Config) (n : Nat) (buf : Bytes) (w : Wire) : Except Failure Results × Wire :=
  match xactRead c n buf w with
  | (.error e, w) => (.error e, w)
  | (.ok buf, w) => xactReply dec buf w

variable {dec} {c : Config} {w w' : Wire} {f p buf chunk : Bytes} {n : Nat}

/-! ## The equations -/

theorem xact_of_write_err (h : w.twrite f = (false, w')) :
    xact c f dec w = (.error .transportError, w') := by
  simp [xact, h]

theorem xact_of_write_ok (h : w.twrite f = (true, w')) :
    xact c f dec w = xactReceive dec c c.maxRetry [] w' := by
  simp only [xact, h]
  rfl

theorem xactHandshake_of_err (h : w.twrite ackFrame = (false, w')) :
    xactHandshake dec p w = (.error .transportError, w') := by
  simp [xactHandshake, h]

theorem xactHandshake_of_ok (h : w.twrite ackFrame = (true, w')) :
    xactHandshake dec p w = (dec p, w') := by
  simp [xactHandshake, h]

theorem xactReply_of_fail {e : Failure} (h : parseRsp buf = .fail e) :
    xactReply dec buf w = (.error e, w) := by
  simp [xactReply, h]

theorem xactReply_of_ack (h : parseRsp buf = .ack) : xactReply dec buf w = (dec [], w) := by
  simp [xactReply, h]

theorem xactReply_of_data (h : parseRsp buf = .data p) :
    xactReply dec buf w = xactHandshake dec p w := by
  simp [xactReply, h]

theorem xactRead_of_err (h : w.tread c.readChunkMax = (none, w')) :
    xactRead c (n + 1) buf w = (.error .transportError, w') := by
  simp [xactRead, h]

theorem xactRead_of_complete (h : w.tread c.readChunkMax = (some chunk, w'))
    (hc : bufComplete (buf ++ chunk) = true) :
    xactRead c (n + 1) buf w = (.ok (buf ++ chunk), w') := by
  simp [xactRead, h, hc]

theorem xactRead_of_incomplete (h : w.tread c.readChunkMax = (some chunk, w'))
    (hc : bufComplete (buf ++ chunk) = false) :
    xactRead c (n + 1) buf w = xactRead c n (buf ++ chunk) w' := by
  simp [xactRead, h, hc]

theorem xactReceive_zero : xactReceive dec c 0 buf w = (.error .retryExhausted, w) := rfl

theorem xactReceive_of_err (h : w.tread c.readChunkMax = (none, w')) :
    xactReceive dec c (n + 1) buf w = (.error .transportError, w') := by
  simp [xactReceive, xactRead_of_err h]

theorem xactReceive_of_complete (h : w.tread c.readChunkMax = (some chunk, w'))
    (hc : bufComplete (buf ++ chunk) = true) :
    xactReceive dec c (n + 1) buf w = xactReply dec (buf ++ chunk) w' := by
  simp [xactReceive, xactRead_of_complete h hc]

theorem xactReceive_of_incomplete (h : w.tread c.readChunkMax = (some chunk, w'))
    (hc : bufComplete (buf ++ chunk) = false) :
    xactReceive dec c (n + 1) buf w = xactReceive dec c n (buf ++ chunk) w' := by
  simp [xactReceive, xactRead_of_incomplete h hc]

end

/-! ## The transport calls -/

theorem calls_of_twrite {f : Bytes} {w w' : Wire} {ok : Bool} (h : w.twrite f = (ok, w')) :
    w'.calls = w.calls ++ [.twrite f] := by
  simpa [h] using twrite_calls f w

theorem calls_of_tread {chunk : Nat} {w w' : Wire} {r : Option Bytes}
    (h : w.tread chunk = (r, w')) : w'.calls = w.calls ++ [.tread] := by
  simpa [h] using tread_calls chunk w

/-- `r` is the end of a read loop that began at the wire `w` with `n` reads left and has made `k`
reads and no other call: all of them when the retries are exhausted, at least one when it succeeds.
-/
structure ReadsMade (n k : Nat) (w : Wire) (r : Except Failure Bytes × Wire) : Prop where
  bound : k ≤ n
  calls : r.2.calls = w.calls ++ List.replicate k .tread
  exhausted : r.1 = .error .retryExhausted → k = n
  success : ∀ buf, r.1 = .ok buf → 1 ≤ k

/-- A loop that ends at its first read. -/
theorem ReadsMade.single {n : Nat} {w : Wire} {r : Except Failure Bytes × Wire}
    (hr : r.1 ≠ .error .retryExhausted) (hcalls : r.2.calls = w.calls ++ [.tread]) :
    ReadsMade (n + 1) 1 w r where
  bound := Nat.le_add_left 1 n
  calls := hcalls
  exhausted h := absurd h hr
  success _ _ := Nat.le_refl 1

/-- One more read before a loop. -/
theorem ReadsMade.succ {n k : Nat} {w w' : Wire} {r : Except Failure Bytes × Wire}
    (h : ReadsMade n k w' r) (hcalls : w'.calls = w.calls ++ [.tread]) :
    ReadsMade (n + 1) (k + 1) w r where
  bound := Nat.succ_le_succ h.bound
  calls := by rw [h.calls, hcalls, List.append_assoc, List.singleton_append, List.replicate_succ]
  exhausted hr := congrArg Nat.succ (h.exhausted hr)
  success _ _ := Nat.le_add_left 1 k

theorem xactRead_readsMade (c : Config) (n : Nat) (buf : Bytes) (w : Wire) :
    ∃ k, ReadsMade n k w (xactRead c n buf w) := by
  induction n generalizing buf w with
  | zero => exact ⟨0, Nat.le_refl 0, by simp [xactRead], fun _ => rfl, by simp [xactRead]⟩
  | succ n ih =>
    obtain ⟨w', hw⟩ | ⟨chunk, w', hw, -⟩ := tread_cases c.readChunkMax w
    · exact ⟨1, xactRead_of_err hw ▸ .single (by simp) (calls_of_tread hw)⟩
    · cases hc : bufComplete (buf ++ chunk) with
      | true => exact ⟨1, xactRead_of_complete hw hc ▸ .single (by simp) (calls_of_tread hw)⟩
      | false =>
        obtain ⟨k, hk⟩ := ih (buf ++ chunk) w'
        exact ⟨k + 1, xactRead_of_incomplete hw hc ▸ hk.succ (calls_of_tread hw)⟩

/-- Settles O57, by induction on the reads left. -/
theorem readsAreBoundedByMaxRetry : Obligations.ReadsAreBoundedByMaxRetry := by
  intro c w
  obtain ⟨k, hk⟩ := xactRead_readsMade c c.maxRetry [] w
  exact ⟨k, hk.bound, hk.calls, hk.exhausted⟩

/-- Past the reads XACT writes the handshake ACK at most. -/
theorem xactReply_calls (dec : Bytes → Except Failure Results) (buf : Bytes) (w : Wire) :
    ∃ tail, (tail = [] ∨ tail = [.twrite ackFrame]) ∧
      (xactReply dec buf w).2.calls = w.calls ++ tail := by
  cases h : parseRsp buf with
  | fail e => exact ⟨[], .inl rfl, by simp [xactReply_of_fail h]⟩
  | ack => exact ⟨[], .inl rfl, by simp [xactReply_of_ack h]⟩
  | data p =>
    refine ⟨_, .inr rfl, ?_⟩
    rw [xactReply_of_data h]
    obtain ⟨w', hw, -⟩ | ⟨-, w', hw, -⟩ := twrite_cases ackFrame w
    · rw [xactHandshake_of_ok hw, calls_of_twrite hw]
    · rw [xactHandshake_of_err hw, calls_of_twrite hw]

/-- After the request XACT makes its reads, then at most the handshake write. -/
theorem xactReceive_calls (dec : Bytes → Except Failure Results) (c : Config) (n : Nat)
    (buf : Bytes) (w : Wire) :
    ∃ k tail, k ≤ n ∧ (tail = [] ∨ tail = [.twrite ackFrame]) ∧
      (xactReceive dec c n buf w).2.calls = w.calls ++ List.replicate k .tread ++ tail ∧
      ∀ r, (xactReceive dec c n buf w).1 = .ok r → 1 ≤ k := by
  obtain ⟨k, hk⟩ := xactRead_readsMade c n buf w
  unfold xactReceive
  rcases hr : xactRead c n buf w with ⟨e | frame, w'⟩
  · rw [hr] at hk
    exact ⟨k, [], hk.bound, .inl rfl, by simpa using hk.calls, by simp⟩
  · rw [hr] at hk
    obtain ⟨tail, htail, hcalls⟩ := xactReply_calls dec frame w'
    exact ⟨k, tail, hk.bound, htail, by rw [hcalls, hk.calls], fun _ _ => hk.success frame rfl⟩

/-- Settles O58: the request's write, then the reads and the handshake of the rest. -/
theorem transportSeesWriteReadsAck : Obligations.TransportSeesWriteReadsAck := by
  intro c f dec w
  rw [← ackFrame_eq]
  obtain ⟨w', hw, -⟩ | ⟨-, w', hw, -⟩ := twrite_cases f w
  · obtain ⟨k, tail, hk, htail, hcalls, hok⟩ := xactReceive_calls dec c c.maxRetry [] w'
    rw [xact_of_write_ok hw]
    exact ⟨k, tail, hk, htail, by rw [hcalls, calls_of_twrite hw], hok⟩
  · rw [xact_of_write_err hw]
    exact ⟨0, [], Nat.zero_le _, .inl rfl, by simpa using calls_of_twrite hw, by simp⟩

end Sys2Proof.Machine
end

section
/-! Runs of several steps, and the run of a silent device (43_reader.md R143, R145). -/

namespace Sys2Proof.Machine

open Sys2Proof

/-! ## Runs -/

theorem runSteps_succ {s t : State} (h : step s = .next t) (k : Nat) :
    runSteps (k + 1) s = runSteps k t := by
  simp [runSteps, h]

theorem runSteps_one (s : State) : runSteps 1 s = step s := by
  simp only [runSteps]
  cases step s <;> rfl

theorem runSteps_add {s t : State} {m : Nat} (h : runSteps m s = .next t) (n : Nat) :
    runSteps (m + n) s = runSteps n t := by
  induction m generalizing s with
  | zero => cases h; rw [Nat.zero_add]
  | succ m ih =>
    cases hs : step s with
    | next u =>
      rw [runSteps_succ hs] at h
      rw [Nat.succ_add, runSteps_succ hs, ih h]
    | fault r => simp [runSteps, hs] at h
    | refused r => simp [runSteps, hs] at h

/-- A run along a sequence of states each of which steps to the one after it. -/
theorem runSteps_chain {f : Nat → State} {n : Nat}
    (h : ∀ k, k < n → step (f k) = .next (f (k + 1))) : runSteps n (f 0) = .next (f n) := by
  induction n with
  | zero => rfl
  | succ n ih =>
    have hrun := ih fun k hk => h k (Nat.lt_succ_of_lt hk)
    rw [runSteps_add hrun, runSteps_one, h n (Nat.lt_succ_self n)]

/-! ## A silent device -/

/-- A state in RECV after `k` more reads that returned nothing: each was counted, took its answer
and was one call. -/
def State.afterSilentReads (s : State) (k : Nat) : State :=
  { s with
    attempt := s.attempt + k
    wire := { s.wire with
      reads := s.wire.reads.drop k
      calls := s.wire.calls ++ List.replicate k .tread } }

theorem afterSilentReads_zero (s : State) : s.afterSilentReads 0 = s := by
  simp [State.afterSilentReads]

/-- A read that returns nothing and a device that sends nothing (20_memory.md R46). -/
theorem tread_silent {w : Wire} (chunk : Nat) (hwin : w.win = []) (h : nextRead w = .bytes [] 0) :
    w.tread chunk =
      (some [], { w with reads := w.reads.tail, calls := w.calls ++ [.tread] }) := by
  rw [tread_bytes chunk h]
  simp [hwin]

/-- With nothing accumulated and nothing read RECV only counts the attempt and its call. -/
theorem step_silent {s : State} {k : Nat} (hsch : s.schedule = []) (hp : s.phase = .recv)
    (hrx : s.rxLen = 0) (hwin : s.wire.win = []) (ha : s.attempt + k ≠ s.cfg.maxRetry)
    (hr : s.wire.reads[k]? = some (.bytes [] 0)) :
    step (s.afterSilentReads k) = .next (s.afterSilentReads (k + 1)) := by
  have hread : nextRead (s.afterSilentReads k).wire = .bytes [] 0 := by
    obtain ⟨hk, he⟩ := List.getElem?_eq_some_iff.mp hr
    simp [nextRead, State.afterSilentReads, List.drop_eq_getElem_cons hk, he]
  have hw := tread_silent s.cfg.readChunkMax (w := (s.afterSilentReads k).wire) hwin hread
  rw [step_of_noSchedule (s := s.afterSilentReads k) hsch,
    blockStep_recv (s := s.afterSilentReads k) hp,
    recvStep_of_incomplete (s := s.afterSilentReads k) ha hw]
  · simp [State.afterSilentReads, State.appendRx, State.countAttempt, State.onWire, memWriteBytes,
      List.replicate_succ', Nat.add_assoc]
  · simp [State.afterSilentReads, hrx]
  · simp [rxComplete, State.afterSilentReads, hrx]

/-- Settles O59: MAX_RETRY silent reads leave the accumulator empty, and the limit then ends the
operation without another read. -/
theorem silentDeviceExhaustsTheRetries : Obligations.SilentDeviceExhaustsTheRetries := by
  intro s hs hsch _ hp ha hwin hreads
  have hrx : s.rxLen = 0 := by simpa [ha] using hs.rxBound
  have hrun : runSteps s.cfg.maxRetry s = .next (s.afterSilentReads s.cfg.maxRetry) := by
    have hchain := runSteps_chain (f := s.afterSilentReads) (n := s.cfg.maxRetry) fun k hk =>
      step_silent hsch hp hrx hwin (by omega) (by simp [hreads, hk])
    rwa [afterSilentReads_zero] at hchain
  have hattempt : (s.afterSilentReads s.cfg.maxRetry).attempt = s.cfg.maxRetry := by
    simp [State.afterSilentReads, ha]
  refine ⟨_, (s.afterSilentReads s.cfg.maxRetry).raise .retryExhausted, hrun, hp, hattempt, ?_, rfl,
    rfl, rfl, rfl⟩
  rw [runSteps_add hrun, runSteps_one, step_of_noSchedule (s := s.afterSilentReads _) hsch,
    blockStep_recv (s := s.afterSilentReads _) hp, recvStep_of_limit hattempt]

end Sys2Proof.Machine
end

section
/-! The steps compute XACT (43_reader.md R153): from each phase of an operation in progress, how
many steps it still takes and which part of XACT they compute. -/

namespace Sys2Proof.Machine

open Sys2Proof

/-! ## How an operation ends -/

/-- What RES_ERR and the result registers say of the end `r` of a transaction. -/
def Reports (s : State) (r : Except Failure Results) : Prop :=
  match r with
  | .ok res => s.resErr = some 0#4 ∧ s.res = res
  | .error e => s.resErr = some (failureCode e) ∧ s.res = Results.noValue

/-- The operation is over in `s`, with the wire, RES_ERR and the result registers as `r` says and
the link open. -/
structure Ended (s : State) (r : Except Failure Results × Wire) : Prop where
  idle : s.phase = .idle
  valid : s.resValid = true
  linkOpen : s.linkOpen = true
  wire : s.wire = r.2
  reports : Reports s r.1

/-- At most `n` steps from `s` end the operation as `r` says. -/
def EndsWithin (n : Nat) (s : State) (r : Except Failure Results × Wire) : Prop :=
  ∃ k u, k ≤ n ∧ runSteps k s = .next u ∧ Ended u r

theorem Ended.raise {s : State} (hl : s.linkOpen = true) (f : Failure) :
    Ended (s.raise f) (.error f, s.wire) :=
  ⟨rfl, rfl, hl, rfl, rfl, rfl⟩

theorem Ended.complete {s : State} (hl : s.linkOpen = true) :
    Ended s.complete (.ok s.res, s.wire) :=
  ⟨rfl, rfl, hl, rfl, rfl, rfl⟩

theorem endsWithin_of_ended {s : State} {r : Except Failure Results × Wire} (h : Ended s r)
    (n : Nat) : EndsWithin n s r :=
  ⟨0, s, Nat.zero_le n, rfl, h⟩

theorem EndsWithin.mono {m n : Nat} {s : State} {r : Except Failure Results × Wire}
    (h : EndsWithin m s r) (hmn : m ≤ n) : EndsWithin n s r := by
  obtain ⟨k, u, hk, hu⟩ := h
  exact ⟨k, u, Nat.le_trans hk hmn, hu⟩

theorem EndsWithin.of_step {n : Nat} {s t : State} {r : Except Failure Results × Wire}
    (hst : step s = .next t) (h : EndsWithin n t r) : EndsWithin (n + 1) s r := by
  obtain ⟨k, u, hk, hrun, hu⟩ := h
  exact ⟨k + 1, u, Nat.succ_le_succ hk, by rw [runSteps_succ hst, hrun], hu⟩

/-- A step that enters a failure is the operation's last. -/
theorem endsWithin_of_raise {n : Nat} {s t : State} {f : Failure} (hst : step s = .next (t.raise f))
    (hl : t.linkOpen = true) : EndsWithin (n + 1) s (.error f, t.wire) :=
  .of_step hst (endsWithin_of_ended (.raise hl f) n)

/-! ## The accumulated frame -/

theorem frameComplete_iff {n : Nat} {len : Byte} :
    frameComplete n len = true ↔ 6 ≤ n ∧ (len = 0x00#8 ∨ len.toNat = n) := by
  unfold frameComplete
  split_ifs with h6 hne
  · simp [h6]
  · simp [hne]
  · simpa [not_lt.mp h6, or_iff_not_imp_left] using hne

/-- The machine's completeness test is XACT's on the bytes accumulated (43_reader.md R144). -/
theorem rxComplete_eq_bufComplete {s : State} {buf : Bytes}
    (hb : memReadBytes s.rx 0 s.rxLen = some buf) : rxComplete s = some (bufComplete buf) := by
  have hlen := memReadBytes_length hb
  unfold rxComplete
  by_cases h6 : s.rxLen < 6
  · simp [h6, bufComplete, hlen]
  · have h2 : memRead s.rx 2 = some (buf.getD 2 0x00#8) := by
      have h2 : 2 < buf.length := by omega
      simpa [List.getElem?_eq_getElem h2] using memReadBytes_get hb (i := 2) (by omega)
    rw [if_neg h6, h2, Option.some.injEq, Bool.eq_iff_iff, frameComplete_iff]
    simp [bufComplete, hlen]

/-- An append puts the chunk behind the bytes accumulated (43_reader.md R146). -/
theorem memReadBytes_appendRx {s : State} {buf : Bytes} (c : Bytes)
    (hb : memReadBytes s.rx 0 s.rxLen = some buf) :
    memReadBytes (s.appendRx c).rx 0 (s.appendRx c).rxLen = some (buf ++ c) := by
  have hlen := memReadBytes_length hb
  simpa [hlen] using memReadBytes_append s.rx 0 buf c (by rw [hlen, hb])

/-- What a substantive response hands to DECODE is what PARSERSP reads as its payload (43_reader.md
R148). -/
theorem memReadBytes_payload {s : State} {buf p : Bytes}
    (hb : memReadBytes s.rx 0 s.rxLen = some buf) (hd : parseRsp buf = .data p) :
    memReadBytes s.rx 4 (s.rxLen - 6) = some p := by
  obtain ⟨len, echo, rfl, -⟩ := ((parserAcceptsExactlySealedFrames buf).2.2.2 p).mp hd
  have hlen : s.rxLen = 6 + p.length := by rw [← memReadBytes_length hb, sealFrame_length]
  rw [memReadBytes_drop_take hb 4 (s.rxLen - 6) (by omega), hlen, Nat.add_sub_cancel_left]
  simp [sealFrame, frameBody]

/-! ## An operation in progress -/

/-- The command `i` is in progress in `s`, past ACCEPT, and every turn is the block's. -/
structure InProgress (i : Instr) (s : State) : Prop where
  inv : StateInv s
  noSchedule : s.schedule = []
  busy : s.phase ≠ .idle
  command : ∃ code, wireCode i = some code ∧ s.curCode = some code

/-- What XACT does with the payload of a response to `i`. -/
def decodeOf (i : Instr) (c : Config) (p : Bytes) : Except Failure Results :=
  decodeHook i c p Results.noValue

namespace InProgress

variable {i : Instr} {s t : State}

theorem linkOpen (h : InProgress i s) : s.linkOpen = true := (h.inv.busy h.busy).1

/-- No result register holds a value before the operation ends (10_state.md R17). -/
theorem res (h : InProgress i s) : s.res = Results.noValue := by
  obtain ⟨-, hv, -⟩ := h.inv.busy h.busy
  exact h.inv.resultsEmpty (by simp [hv])

theorem step_eq (h : InProgress i s) :
    ∃ code, wireCode i = some code ∧ s.curCode = some code ∧
      step s = wireCommand code (encodeHook i) (decodeHook i) s := by
  obtain ⟨code, hi, hc⟩ := h.command
  exact ⟨code, hi, hc, by
    rw [step_of_noSchedule h.noSchedule, blockStep_busy h.busy hc hi, exec_wireCommand hi]⟩

/-- A step that does not end the operation leaves it in progress. -/
theorem next (h : InProgress i s) (hst : step s = .next t) (hb : t.phase ≠ .idle) :
    InProgress i t := by
  obtain ⟨code, hi, hc, heq⟩ := h.step_eq
  have hframe := wireCommand_registerFrame (heq ▸ hst)
  exact ⟨step_keepsInv h.inv hst, hframe.schedule.trans h.noSchedule, hb,
    code, hi, (hframe.latched h.busy).1.trans hc⟩

/-! ## From each phase to the end -/

theorem ends_decode {p : Bytes} (h : InProgress i s) (hp : s.phase = .decode)
    (hq : PayloadIs s p) : EndsWithin 1 s (decodeOf i s.cfg p, s.wire) := by
  obtain ⟨code, -, -, hst⟩ := h.step_eq
  rw [wireCommand_decode hp, decodeStep_eq hq, h.res] at hst
  unfold decodeOf
  cases hd : decodeHook i s.cfg p Results.noValue with
  | error e =>
    rw [hd] at hst
    exact endsWithin_of_raise hst h.linkOpen
  | ok r =>
    rw [hd] at hst
    exact .of_step hst (endsWithin_of_ended (.complete (s := { s with res := r }) h.linkOpen) 0)

theorem ends_hsack {p : Bytes} (h : InProgress i s) (hp : s.phase = .hsack)
    (hq : memReadBytes s.rx 4 (s.rxLen - 6) = some p) :
    EndsWithin 2 s (xactHandshake (decodeOf i s.cfg) p s.wire) := by
  obtain ⟨code, -, -, hst⟩ := h.step_eq
  rw [wireCommand_hsack hp] at hst
  obtain ⟨w, hw, -⟩ | ⟨-, w, hw, -⟩ := twrite_cases ackFrame s.wire
  · rw [hsackStep_of_ok hw] at hst
    rw [xactHandshake_of_ok hw]
    exact .of_step hst ((h.next hst (by simp)).ends_decode rfl (.inr ⟨h.inv.classified.1 hp, hq⟩))
  · rw [hsackStep_of_err hw] at hst
    rw [xactHandshake_of_err hw]
    exact endsWithin_of_raise hst h.linkOpen

theorem ends_parse {buf : Bytes} (h : InProgress i s) (hp : s.phase = .parse)
    (hb : memReadBytes s.rx 0 s.rxLen = some buf) :
    EndsWithin 3 s (xactReply (decodeOf i s.cfg) buf s.wire) := by
  obtain ⟨code, -, -, hst⟩ := h.step_eq
  rw [wireCommand_parse hp, parseStep_eq hp hb] at hst
  cases hr : parseRsp buf with
  | fail e =>
    rw [hr] at hst
    rw [xactReply_of_fail hr]
    exact endsWithin_of_raise hst h.linkOpen
  | ack =>
    rw [hr] at hst
    rw [xactReply_of_ack hr]
    exact .of_step hst (((h.next hst (by simp)).ends_decode rfl (.inl ⟨rfl, rfl⟩)).mono (by omega))
  | data p =>
    rw [hr] at hst
    rw [xactReply_of_data hr]
    exact .of_step hst ((h.next hst (by simp)).ends_hsack rfl (memReadBytes_payload hb hr))

/-- RECV with `n` reads left: each read is a step, and the end takes three steps more. -/
theorem ends_recv {n : Nat} {buf : Bytes} (h : InProgress i s) (hp : s.phase = .recv)
    (hn : s.attempt + n = s.cfg.maxRetry) (hb : memReadBytes s.rx 0 s.rxLen = some buf) :
    EndsWithin (n + 3) s (xactReceive (decodeOf i s.cfg) s.cfg n buf s.wire) := by
  induction n generalizing s buf with
  | zero =>
    obtain ⟨code, -, -, hst⟩ := h.step_eq
    rw [wireCommand_recv hp, recvStep_of_limit hn] at hst
    rw [xactReceive_zero]
    exact endsWithin_of_raise hst h.linkOpen
  | succ n ih =>
    obtain ⟨code, -, -, hst⟩ := h.step_eq
    rw [wireCommand_recv hp] at hst
    have ha : s.attempt ≠ s.cfg.maxRetry := by omega
    rw [Nat.add_right_comm]
    obtain ⟨w, hw⟩ | ⟨c, w, hw, -⟩ := tread_cases s.cfg.readChunkMax s.wire
    · rw [recvStep_of_err ha hw] at hst
      rw [xactReceive_of_err hw]
      exact endsWithin_of_raise hst h.linkOpen
    · have hroom := h.inv.chunk_fits ha hw
      have hbuf := memReadBytes_appendRx (s := s.countAttempt.onWire w) c hb
      have hc := rxComplete_eq_bufComplete hbuf
      cases hcomp : bufComplete (buf ++ c) with
      | true =>
        rw [recvStep_of_complete ha hw hroom (hcomp ▸ hc)] at hst
        rw [xactReceive_of_complete hw hcomp]
        exact .of_step hst (((h.next hst (by simp)).ends_parse rfl hbuf).mono (by omega))
      | false =>
        rw [recvStep_of_incomplete ha hw hroom (hcomp ▸ hc)] at hst
        rw [xactReceive_of_incomplete hw hcomp]
        exact .of_step hst (ih (h.next hst (by simp [hp])) hp (by simp; omega) hbuf)

theorem ends_send {f : Bytes} (h : InProgress i s) (hp : s.phase = .send)
    (hf : memReadBytes s.tx 0 s.txLen.toNat = some f) :
    EndsWithin (s.cfg.maxRetry + 4) s (xact s.cfg f (decodeOf i s.cfg) s.wire) := by
  obtain ⟨code, -, -, hst⟩ := h.step_eq
  rw [wireCommand_send hp] at hst
  obtain ⟨w, hw, -⟩ | ⟨-, w, hw, -⟩ := twrite_cases f s.wire
  · rw [sendStep_of_ok hf hw] at hst
    rw [xact_of_write_ok hw]
    exact .of_step hst ((h.next hst (by simp)).ends_recv rfl (by simp) rfl)
  · rw [sendStep_of_err hf hw] at hst
    rw [xact_of_write_err hw]
    exact endsWithin_of_raise hst h.linkOpen

end InProgress

/-! ## The whole operation -/

/-- ACCEPT of a presented command on an open link, its operands encoded: the operation is in
progress, its request in TXBUF, the parameters and the wire as they were (43_reader.md R141). -/
theorem step_accept {s : State} {w : BitVec 10} {i : Instr} {code : Byte} {p : Bytes}
    (hs : StateInv s) (hsch : s.schedule = []) (hp : s.phase = .idle) (hr : s.request = true)
    (hl : s.linkOpen = true) (hw : s.hop = some w) (hd : decodeHop w = .ok i)
    (hi : wireCode i = some code) (he : encodeHook i s = .value p) :
    ∃ t, step s = .next t ∧ InProgress i t ∧ t.phase = .send ∧ t.cfg = s.cfg ∧ t.wire = s.wire ∧
      memReadBytes t.tx 0 t.txLen.toNat = some (buildReq code p) := by
  have he' : encodeHook i s.takeRequest = .value p := by rw [← he]; cases i <;> rfl
  have hst : step s = .next (s.takeRequest.beginOperation.latchRequest code p) := by
    rw [step_of_noSchedule hsch,
      blockStep_of_fetchOperation hp hr (fetchOperation_of_decodeHop hw hd)]
    exact exec_of_encodeHook_value hi hp hl he'
  refine ⟨_, hst, ⟨step_keepsInv hs hst, hsch, by simp, code, hi, rfl⟩, rfl, rfl, rfl, ?_⟩
  have hlen : (BitVec.ofNat 8 (6 + p.length)).toNat = (buildReq code p).length := by
    have := encodeHook_length he
    rw [buildReq, sealFrame_length, BitVec.toNat_ofNat]
    omega
  rw [State.latchRequest_txLen, hlen]
  exact memReadBytes_memWriteBytes _ _ _

/-- Settles O60: ACCEPT, then from SEND on each step computes its part of XACT. -/
theorem stepsComputeTheTransaction : Obligations.StepsComputeTheTransaction := by
  intro s w i code p hs hsch hp hr hl hw hd hi he
  obtain ⟨t, hst, hprog, hsend, hcfg, hwire, htx⟩ := step_accept hs hsch hp hr hl hw hd hi he
  have hend := EndsWithin.of_step hst (hprog.ends_send hsend htx)
  rw [hcfg, hwire] at hend
  obtain ⟨k, u, hk, hrun, hu⟩ := hend
  exact ⟨k, u, hk, hrun, hu.idle, hu.valid, hu.linkOpen, hu.wire, hu.reports⟩

end Sys2Proof.Machine
end

section
/-! The link operations (44_commands.md R186, R187): what OPEN and CLOSE answer at IDLE, and all they
can change. -/

namespace Sys2Proof.Machine

open Sys2Proof

/-! ## The transport's answer -/

theorem topen_of_ok {w : Wire} (h : nextOpen w = .ok) :
    w.topen = (true, { w with opens := w.opens.tail, calls := w.calls ++ [.topen] }) := by
  simp [Wire.topen, h]

theorem topen_of_err {w : Wire} (h : nextOpen w = .err) :
    w.topen = (false, { w with opens := w.opens.tail, calls := w.calls ++ [.topen] }) := by
  simp [Wire.topen, h]

/-- Whatever the answer, the wire after a TOpen is the same (20_memory.md R47). -/
theorem topen_wire {w w' : Wire} {ok : Bool} (h : w.topen = (ok, w')) :
    w' = { w with opens := w.opens.tail, calls := w.calls ++ [.topen] } := by
  cases ho : nextOpen w with
  | ok => rw [topen_of_ok ho] at h; cases h; rfl
  | err => rw [topen_of_err ho] at h; cases h; rfl

/-! ## The two steps -/

theorem openStep_of_open {s : State} (hl : s.linkOpen = true) :
    openStep s = .next (s.beginOperation.raise .connectionStateError) := by
  simp [openStep, hl]

theorem openStep_of_topen_ok {s : State} {w : Wire} (hl : s.linkOpen = false)
    (hw : s.wire.topen = (true, w)) :
    openStep s = .next ((s.beginOperation.onWire w).setLink true).complete := by
  simp [openStep, hl, hw]

theorem openStep_of_topen_err {s : State} {w : Wire} (hl : s.linkOpen = false)
    (hw : s.wire.topen = (false, w)) :
    openStep s = .next ((s.beginOperation.onWire w).raise .transportError) := by
  simp [openStep, hl, hw]

theorem closeStep_of_open {s : State} (hl : s.linkOpen = true) :
    closeStep s = .next ((s.beginOperation.onWire s.wire.tclose).setLink false).complete := by
  simp [closeStep, hl]

theorem closeStep_of_closed {s : State} (hl : s.linkOpen = false) :
    closeStep s = .next (s.beginOperation.raise .connectionStateError) := by
  simp [closeStep, hl]

theorem exec_openLink_of_idle {s : State} (hp : s.phase = .idle) :
    exec .openLink s = openStep s := whenPhase_at hp openStep

theorem exec_closeLink_of_idle {s : State} (hp : s.phase = .idle) :
    exec .closeLink s = closeStep s := whenPhase_at hp closeStep

/-- Success at IDLE leaves PHASE where it was: the step writes the link bit, the wire, the completion
status and the emptied result registers. -/
theorem complete_setLink_of_idle {s : State} (hp : s.phase = .idle) (w : Wire) (b : Bool) :
    ((s.beginOperation.onWire w).setLink b).complete = { s with
      linkOpen := b, resErr := some 0#4, resValid := true, res := Results.noValue, wire := w } := by
  simp [State.complete, State.setLink, State.onWire, State.beginOperation, hp]

theorem raise_onWire_of_idle {s : State} (hp : s.phase = .idle) (w : Wire) (f : Failure) :
    (s.beginOperation.onWire w).raise f = { s with
      resErr := some (failureCode f), resValid := true, res := Results.noValue, wire := w } := by
  simp [State.raise, State.onWire, State.beginOperation, hp]

/-! ## The statements -/

/-- Settles O21: the equation of each of OPEN's three answers. -/
theorem openLinkAsksTheTransport : Obligations.OpenLinkAsksTheTransport := by
  intro s hp
  rw [exec_openLink_of_idle hp]
  refine ⟨fun hl ho => ?_, fun hl ho => ?_, fun hl => ?_⟩
  · rw [openStep_of_topen_ok hl (topen_of_ok ho), complete_setLink_of_idle hp]
  · rw [openStep_of_topen_err hl (topen_of_err ho), raise_onWire_of_idle hp]
    rfl
  · rw [openStep_of_open hl, raise_beginOperation_of_idle hp]
    rfl

/-- Settles O22: the equation of each of CLOSE's two answers. -/
theorem closeLinkReleasesTheTransport : Obligations.CloseLinkReleasesTheTransport := by
  intro s hp
  rw [exec_closeLink_of_idle hp]
  refine ⟨fun hl => ?_, fun hl => ?_⟩
  · rw [closeStep_of_open hl, complete_setLink_of_idle hp]
    rfl
  · rw [closeStep_of_closed hl, raise_beginOperation_of_idle hp]
    rfl

/-- What a link operation may write: the link bit, the completion status and the results, and of the
wire the open answers and the calls; it ends at IDLE. -/
def LinkOutcome (s t : State) : Prop :=
  ∃ (b : Bool) (e : BitVec 4) (opens : List OpenAnswer) (calls : List Call), t = { s with
    phase := .idle, linkOpen := b, resErr := some e, resValid := true, res := Results.noValue
    wire := { s.wire with opens := opens, calls := calls } }

theorem openStep_linkOutcome {s t : State} (h : openStep s = .next t) : LinkOutcome s t := by
  obtain ⟨-, rfl⟩ | ⟨-, ⟨w, hw, rfl⟩ | ⟨w, hw, rfl⟩⟩ := openStep_next h
  · exact ⟨s.linkOpen, _, s.wire.opens, s.wire.calls, rfl⟩
  · cases topen_wire hw
    exact ⟨true, _, _, _, rfl⟩
  · cases topen_wire hw
    exact ⟨s.linkOpen, _, _, _, rfl⟩

theorem closeStep_linkOutcome {s t : State} (h : closeStep s = .next t) : LinkOutcome s t := by
  obtain ⟨-, rfl⟩ | ⟨-, rfl⟩ := closeStep_next h
  · exact ⟨s.linkOpen, _, s.wire.opens, s.wire.calls, rfl⟩
  · exact ⟨false, _, s.wire.opens, _, rfl⟩

/-- A link operation takes its one step at IDLE; in any other phase it changes nothing (log 10). -/
theorem exec_link_next {i : Instr} {s t : State} (hi : i = .openLink ∨ i = .closeLink)
    (h : exec i s = .next t) : (s.phase = .idle ∧ LinkOutcome s t) ∨ (s.phase ≠ .idle ∧ t = s) := by
  obtain rfl | rfl := hi
  · exact (whenPhase_next h).imp_left (And.imp_right openStep_linkOutcome)
  · exact (whenPhase_next h).imp_left (And.imp_right closeStep_linkOutcome)

/-- Settles O23: at IDLE the next state is a `LinkOutcome`, else it is the same state. While an
operation is in progress nothing changes: that clause is log 10's. -/
theorem linkOperationsFrame : Obligations.LinkOperationsFrame := by
  intro i s t hi h
  obtain ⟨hp, b, e, opens, calls, rfl⟩ | ⟨-, rfl⟩ := exec_link_next hi h
  · simp [hp]
  · simp

end Sys2Proof.Machine
end

section
/-! DECODE (43_reader.md R152; 44_commands.md R172 to R190): what each command's hook makes of a payload,
and how the operation ends. -/

namespace Sys2Proof.Machine

open Sys2Proof

/-! ## The step -/

theorem exec_of_decodeHook_ok {i : Instr} {s : State} {p : Bytes} {r : Results}
    (hi : i ∈ wireCommands) (hp : s.phase = .decode) (hq : PayloadIs s p)
    (hd : decodeHook i s.cfg p s.res = .ok r) :
    exec i s = .next { s with
      resErr := some 0#4, resValid := true, phase := .idle, res := r } := by
  obtain ⟨code, hc⟩ := mem_wireCommands.mp hi
  rw [exec_wireCommand hc, wireCommand_decode hp, decodeStep_eq hq, hd]

theorem exec_of_decodeHook_error {i : Instr} {s : State} {p : Bytes} {f : Failure}
    (hi : i ∈ wireCommands) (hp : s.phase = .decode) (hq : PayloadIs s p)
    (hd : decodeHook i s.cfg p s.res = .error f) : exec i s = .next (s.raise f) := by
  obtain ⟨code, hc⟩ := mem_wireCommands.mp hi
  rw [exec_wireCommand hc, wireCommand_decode hp, decodeStep_eq hq, hd]

/-! ## The discarding and the raw commands -/

theorem decodeHook_of_mem_discardCommands {i : Instr} (hi : i ∈ discardCommands) :
    i ∈ wireCommands ∧ decodeHook i = decodeDiscard := by
  cases i <;> simp [discardCommands] at hi <;> exact ⟨by decide, rfl⟩

theorem decodeHook_of_raw_response {i : Instr} (hi : i = .barcode ∨ i = .getCrc32) :
    i ∈ wireCommands ∧ decodeHook i = decodeRaw := by
  obtain rfl | rfl := hi <;> exact ⟨by decide, rfl⟩

/-- Settles O31: the hook hands back the result registers it was given. -/
theorem discardCommandsComplete : Obligations.DiscardCommandsComplete := by
  intro i s p hi hp hq
  obtain ⟨hw, hhook⟩ := decodeHook_of_mem_discardCommands hi
  exact exec_of_decodeHook_ok (r := s.res) hw hp hq (by rw [hhook, decodeDiscard])

/-- Settles O32: the hook writes the payload and its length. -/
theorem rawResponseIsDelivered : Obligations.RawResponseIsDelivered := by
  intro i s p hi hp hq
  obtain ⟨hw, hhook⟩ := decodeHook_of_raw_response hi
  exact exec_of_decodeHook_ok hw hp hq (by rw [hhook, decodeRaw])

/-! ## POLL -/

theorem decodePoll_cons (c : Config) (st : Byte) (rest : Bytes) (r : Results) :
    decodePoll c (st :: rest) r = .ok { r with
      status := some st, param := some (rest.headD 0x00#8) } := rfl

/-- Settles O33: the parameter is the second byte or 0x00. -/
theorem pollDeliversStatus : Obligations.PollDeliversStatus := by
  intro s st rest hp hq
  rw [exec_of_decodeHook_ok (i := .poll) (by decide) hp hq (decodePoll_cons s.cfg st rest _)]
  cases rest <;> rfl

/-! ## GETSTATUS -/

/-- BSDECN reads at most three bytes (41_bitset.md R115). -/
theorem bsdecn_take (m : Bytes) : bsdecn (m.take 3) = bsdecn m := by
  simp [bsdecn, List.getD_eq_getElem?_getD]

/-- BSDECN keeps index `t` in bit `t`, a missing byte counting as 0x00 (41_bitset.md R113, R115). -/
theorem bsdecn_getLsbD {t : Nat} (m : Bytes) (ht : t < 24) :
    (bsdecn m).getLsbD t = maskBit m t := by
  rw [bsdecn, bsdec_getLsbD _ _ _ ht, maskBit, maskBit]
  obtain h | h | h : t / 8 = 0 ∨ t / 8 = 1 ∨ t / 8 = 2 := by omega
  all_goals simp [h]

theorem maskBit_drop {t : Nat} (p : Bytes) (ht : t < 24) :
    maskBit (p.drop 4) t = (p.getD (6 - t / 8) 0x00#8).getLsbD (t % 8) := by
  have hbyte : 4 + (2 - t / 8) = 6 - t / 8 := by omega
  rw [maskBit, List.getD_eq_getElem?_getD, List.getElem?_drop, hbyte, List.getD_eq_getElem?_getD]

/-- The enabled set is in bytes 0 to 2, the security set in bytes 4 to 6 (44_commands.md R172). -/
theorem decodeGetStatus_of_le {p : Bytes} (h : 3 ≤ p.length) (c : Config) (r : Results) :
    decodeGetStatus c p r = .ok { r with
      setA := some (bsdecn p), setB := some (bsdecn (p.drop 4)) } := by
  match p, h with
  | m0 :: m1 :: m2 :: rest, _ =>
    rw [decodeGetStatus, bsdecn_take]
    rfl

theorem decodeGetStatus_of_lt {p : Bytes} (h : p.length < 3) (c : Config) (r : Results) :
    decodeGetStatus c p r = .error .frameFormatError := by
  match p, h with
  | [], _ | [_], _ | [_, _], _ => rfl
  | _ :: _ :: _ :: _, h => simp at h; omega

/-- Settles O34: the two sets are BSDECN of the payload and of the payload from byte 4 on. -/
theorem statusDeliversTwoSets : Obligations.StatusDeliversTwoSets := by
  intro s p hp hq hlen
  refine ⟨bsdecn p, bsdecn (p.drop 4), ?_, fun t ht => ⟨bsdecn_getLsbD p ht, ?_⟩⟩
  · exact exec_of_decodeHook_ok (i := .getStatus) (by decide) hp hq
      (decodeGetStatus_of_le hlen s.cfg _)
  · rw [bsdecn_getLsbD _ ht, maskBit_drop p ht]

/-! ## GETBILLTABLE -/

theorem decodeGetBillTable_of_le {p : Bytes} (h : 120 ≤ p.length) (c : Config) (r : Results) :
    decodeGetBillTable c p r = .ok { r with
      bill := some ((List.range 24).map (billEntryAt p)) } :=
  if_neg (by omega)

/-- The five payload bytes of a bill table entry are there and are its fields (30_encoding.md R80). -/
theorem billEntryAt_bytes {p : Bytes} {i : Nat} (h : 5 * i + 4 < p.length) :
    p[5 * i]? = some (billEntryAt p i).mant ∧ p[5 * i + 1]? = some (billEntryAt p i).cc.1 ∧
      p[5 * i + 2]? = some (billEntryAt p i).cc.2.1 ∧
      p[5 * i + 3]? = some (billEntryAt p i).cc.2.2 ∧
      ∃ b, p[5 * i + 4]? = some b ∧ (billEntryAt p i).exp = expDec b := by
  have held {k : Nat} (hk : k ≤ 5 * i + 4) : p[k]? = some (p.getD k 0x00#8) := by
    rw [List.getD_eq_getElem _ _ (by omega), List.getElem?_eq_getElem]
  exact ⟨held (by omega), held (by omega), held (by omega), held (by omega), _,
    held le_rfl, rfl⟩

/-- Settles O35: entry `i` is `billEntryAt` of the payload, whose bytes are all there. -/
theorem billTableDeliversEveryEntry : Obligations.BillTableDeliversEveryEntry := by
  intro s p hp hq hlen
  refine ⟨(List.range 24).map (billEntryAt p), by simp, ?_, fun i hi => ⟨billEntryAt p i, ?_, ?_⟩⟩
  · exact exec_of_decodeHook_ok (i := .getBillTable) (by decide) hp hq
      (decodeGetBillTable_of_le hlen s.cfg _)
  · simp [hi]
  · exact billEntryAt_bytes (by omega)

/-! ## EXPDEC -/

/-- Settles O11: above 0x80 the 9-bit difference from 128 is negated without overflow, else the byte
fits in nine bits. -/
theorem exponentByteIsBiased : Obligations.ExponentByteIsBiased := by
  intro b
  unfold expDec
  have hb := b.isLt
  split_ifs with h
  · have hsub : (b.setWidth 9 - 128#9).toInt = (b.toNat : Int) - 128 := by
      rw [BitVec.toInt_eq_toNat_of_lt] <;> simp <;> omega
    rw [BitVec.toInt_neg, hsub, Int.bmod_eq_of_le (by omega) (by omega)]
  · rw [BitVec.toInt_eq_toNat_of_lt] <;> simp <;> omega

/-! ## IDENT -/

theorem decodeIdent_of_le {c : Config} {p : Bytes} (h : c.idMinLen ≤ p.length) (r : Results) :
    decodeIdent c p r = .ok { r with
      part := some ((p.drop c.idPartOff).take 15)
      serial := some ((p.drop c.idSerialOff).take 11)
      asset := some ((p.drop c.idAssetOff).take 6) } :=
  if_neg (by omega)

/-- IDMINLEN bytes hold all three slices (30_encoding.md R82). -/
theorem idMinLen_le_iff {c : Config} {n : Nat} : c.idMinLen ≤ n ↔
    c.idPartOff + 15 ≤ n ∧ c.idSerialOff + 11 ≤ n ∧ c.idAssetOff + 6 ≤ n := by
  simp [Config.idMinLen]

theorem length_slice {p : Bytes} {off n : Nat} (h : off + n ≤ p.length) :
    ((p.drop off).take n).length = n := by
  rw [List.length_take, List.length_drop]
  omega

theorem getElem?_slice (p : Bytes) (off : Nat) {n k : Nat} (hk : k < n) :
    ((p.drop off).take n)[k]? = p[off + k]? := by
  rw [List.getElem?_take_of_lt hk, List.getElem?_drop]

/-- Settles O36: the hook writes three slices, each inside the payload. -/
theorem identDeliversThreeSlices : Obligations.IdentDeliversThreeSlices := by
  intro s p hp hq hlen
  obtain ⟨hpart, hserial, hasset⟩ := idMinLen_le_iff.mp hlen
  exact ⟨_, _, _, length_slice hpart, length_slice hserial, length_slice hasset,
    exec_of_decodeHook_ok (i := .ident) (by decide) hp hq (decodeIdent_of_le hlen _),
    fun _ => getElem?_slice p _, fun _ => getElem?_slice p _, fun _ => getElem?_slice p _⟩

/-! ## A payload too short -/

/-- Settles O37: each of the four hooks fails below its threshold. -/
theorem shortPayloadIsFrameFormatError : Obligations.ShortPayloadIsFrameFormatError := by
  intro i s p hp hq hshort
  obtain ⟨hi, hd⟩ : i ∈ wireCommands ∧ decodeHook i s.cfg p s.res = .error .frameFormatError := by
    obtain ⟨rfl, h⟩ | ⟨rfl, h⟩ | ⟨rfl, h⟩ | ⟨rfl, h⟩ := hshort
    · obtain rfl := List.length_eq_zero_iff.mp (Nat.lt_one_iff.mp h)
      exact ⟨by decide, rfl⟩
    · exact ⟨by decide, decodeGetStatus_of_lt h s.cfg _⟩
    · exact ⟨by decide, if_pos h⟩
    · exact ⟨by decide, if_pos h⟩
  exact exec_of_decodeHook_error hi hp hq hd

end Sys2Proof.Machine
end

section
/-! How a step past ACCEPT can leave the operation (60_exceptions.md R214, R216), and what its failure
leaves alone. -/

namespace Sys2Proof.Machine

open Sys2Proof

/-- What a step past ACCEPT from `s` answers: the operation goes on, it succeeds, or it fails. Before it
fails, the step has counted an attempt and made a transport call at most (43_reader.md R142 to R152). -/
inductive BusyOutcome (s : State) : State → Prop where
  | goesOn {t : State} (h : t.resValid = s.resValid) : BusyOutcome s t
  | succeeds {t : State} (h : t.resErr = some 0#4) : BusyOutcome s t
  | fails (n : Nat) (w : Wire) (f : Failure) :
      BusyOutcome s (State.raise f { s with attempt := n, wire := w })

theorem sendStep_busyOutcome {s t : State} (h : sendStep s = .next t) : BusyOutcome s t := by
  obtain ⟨f, -, ⟨w, -, rfl⟩ | ⟨w, -, rfl⟩⟩ := sendStep_next h
  · exact .goesOn rfl
  · exact .fails _ w _

theorem recvStep_busyOutcome {s t : State} (h : recvStep s = .next t) : BusyOutcome s t := by
  obtain ⟨-, rfl⟩ | ⟨-, ⟨w, -, rfl⟩ | ⟨c, w, -, hc⟩⟩ := recvStep_next h
  · exact .fails _ _ _
  · exact .fails _ w _
  · obtain ⟨-, ⟨-, rfl⟩ | ⟨-, rfl⟩⟩ := recvChunk_next hc <;> exact .goesOn rfl

theorem parseStep_busyOutcome {s t : State} (hp : s.phase = .parse) (h : parseStep s = .next t) :
    BusyOutcome s t := by
  obtain ⟨f, -, ⟨-, rfl⟩ | ⟨p, -, rfl⟩ | ⟨e, -, rfl⟩⟩ := parseStep_next hp h
  · exact .goesOn rfl
  · exact .goesOn rfl
  · exact .fails _ _ e

theorem hsackStep_busyOutcome {s t : State} (h : hsackStep s = .next t) : BusyOutcome s t := by
  obtain ⟨w, -, rfl⟩ | ⟨w, -, rfl⟩ := hsackStep_next h
  · exact .goesOn rfl
  · exact .fails _ w _

theorem decodeStep_busyOutcome {dec : Config → Bytes → Results → Except Failure Results}
    {s t : State} (h : decodeStep dec s = .next t) : BusyOutcome s t := by
  obtain ⟨p, -, ⟨f, -, rfl⟩ | ⟨r, -, rfl⟩⟩ := decodeStep_next h
  · exact .fails _ _ f
  · exact .succeeds rfl

theorem blockStep_busyOutcome {s t : State} (hp : s.phase ≠ .idle) (h : blockStep s = .next t) :
    BusyOutcome s t := by
  cases hq : s.phase with
  | idle => exact absurd hq hp
  | send => rw [blockStep_send hq] at h; exact sendStep_busyOutcome h
  | recv => rw [blockStep_recv hq] at h; exact recvStep_busyOutcome h
  | parse => rw [blockStep_parse hq] at h; exact parseStep_busyOutcome hq h
  | hsack => rw [blockStep_hsack hq] at h; exact hsackStep_busyOutcome h
  | decode =>
    obtain ⟨i, -, -, -, hd⟩ := blockStep_decode_next hq h
    exact decodeStep_busyOutcome hd

/-- Settles O47: RES_VALID is 0 while an operation is in progress, so a step that ends it with a non-zero
RES_ERR is the one that fails. -/
theorem failureKeepsLinkLatchesAndBuffers : Obligations.FailureKeepsLinkLatchesAndBuffers := by
  intro s t c hs hsch hp h hv he hc
  rw [step_of_noSchedule hsch] at h
  cases blockStep_busyOutcome hp h with
  | goesOn hk =>
    obtain ⟨-, hbusy, -⟩ := hs.busy hp
    simp [hk, hbusy] at hv
  | succeeds hz => exact absurd (Option.some.inj (he.symm.trans hz)) hc
  | fails n w f => exact ⟨rfl, rfl, rfl, rfl, rfl, rfl, rfl, fun _ => rfl, fun _ => rfl⟩

end Sys2Proof.Machine
end

section
/-! Operands that hold no value (70_reset_and_hazards.md R243; 10_state.md R27): a fault of a command's
encode hook is the operation's. -/

namespace Sys2Proof.Machine

open Sys2Proof

/-! ## A fault in ACCEPT -/

theorem acceptStep_of_fault {code : Byte} {enc : State → Hook Bytes} {s : State} {e : Fault}
    (hl : s.linkOpen = true) (he : enc s = .fault e) : acceptStep code enc s = .fault e := by
  simp [acceptStep, hl, he]

/-- On an open link the fault of a command's encode hook is the operation's. -/
theorem exec_of_encodeHook_fault {i : Instr} {s : State} {e : Fault} (hi : i ∈ wireCommands)
    (hp : s.phase = .idle) (hl : s.linkOpen = true) (he : encodeHook i s = .fault e) :
    exec i s = .fault e := by
  obtain ⟨code, hc⟩ := mem_wireCommands.mp hi
  rw [exec_wireCommand hc, wireCommand_idle hp, acceptStep_of_fault hl he]

/-! ## The encode hooks on registers without a value -/

/-- A slice with a byte that holds no value cannot be read. -/
theorem memReadBytes_of_memRead_none {m : Memory} {a n i : Nat} (hi : i < n)
    (h : memRead m (a + i) = none) : memReadBytes m a n = none := by
  by_contra hsome
  have hbyte := (memReadBytes_isSome m a n).mp (Option.isSome_iff_ne_none.mpr hsome) i hi
  simp [h] at hbyte

theorem encodeRaw_of_noLength {s : State} (h : s.opRawLen = none) :
    encodeRaw s = .fault (.noValue .opRawLen) := by
  simp [encodeRaw, h]

theorem encodeRaw_of_unwrittenByte {s : State} {n : Byte} {a : Nat} (hn : s.opRawLen = some n)
    (hmax : n.toNat ≤ 249) (ha : a < n.toNat) (h : memRead s.opRaw a = none) :
    encodeRaw s = .fault (.noValue .opRaw) := by
  have hslice : memReadBytes s.opRaw 0 n.toNat = none :=
    memReadBytes_of_memRead_none ha (by rwa [Nat.zero_add])
  simp [encodeRaw, txPayMax, hn, hmax, hslice]

theorem encodeMask_none (r : Reg) : encodeMask r none = .fault (.noValue r) := rfl

theorem encodeEnable_of_setA_fault {s : State} {e : Fault}
    (ha : encodeMask .opSetA s.opSetA = .fault e) : encodeEnable s = .fault e := by
  simp [encodeEnable, ha]

theorem encodeEnable_of_setB_fault {s : State} {ma : Bytes} {e : Fault}
    (ha : encodeMask .opSetA s.opSetA = .value ma) (hb : encodeMask .opSetB s.opSetB = .fault e) :
    encodeEnable s = .fault e := by
  simp [encodeEnable, ha, hb]

/-- Either mask command's hook evaluates OP_SETA first (log 1). -/
theorem encodeHook_of_setA_none {i : Instr} {s : State} (hi : i ∈ maskCommands)
    (h : s.opSetA = none) : encodeHook i s = .fault (.noValue .opSetA) := by
  have hmask : encodeMask .opSetA s.opSetA = .fault (.noValue .opSetA) := by
    rw [h, encodeMask_none]
  simp only [maskCommands, List.mem_cons, List.not_mem_nil, or_false] at hi
  obtain rfl | rfl := hi
  · exact hmask
  · exact encodeEnable_of_setA_fault hmask

/-! ## The statement -/

/-- Settles O20: the hook that reads the register faults, and ACCEPT ends with its fault. -/
theorem unwrittenOperandFaults : Obligations.UnwrittenOperandFaults := by
  intro s hp hl
  refine ⟨fun i hi => ?raw, fun i hi ha => ?setA, fun la ha hle hb => ?setB⟩
  case raw =>
    have hwire : i ∈ wireCommands := List.mem_append_left _ (List.mem_append_left _ hi)
    have of_hook {e : Fault} (he : encodeRaw s = .fault e) : exec i s = .fault e :=
      exec_of_encodeHook_fault hwire hp hl (by rw [encodeHook_of_mem_rawCommands hi, he])
    exact ⟨fun h => of_hook (encodeRaw_of_noLength h),
      fun n a hn hmax ha h => of_hook (encodeRaw_of_unwrittenByte hn hmax ha h)⟩
  case setA =>
    have hwire : i ∈ wireCommands := List.mem_append_right _ hi
    exact exec_of_encodeHook_fault hwire hp hl (encodeHook_of_setA_none hi ha)
  case setB =>
    refine exec_of_encodeHook_fault (i := .enable) (by decide) hp hl ?_
    exact encodeEnable_of_setB_fault (ha ▸ encodeMask_of_bsenc_ok _ (bsenc_of_le hle))
      (hb ▸ encodeMask_none _)

end Sys2Proof.Machine
end

section
/-! Reset (70_reset_and_hazards.md R240 to R242): the state it leaves, and what it keeps when it lands. -/

namespace Sys2Proof.Machine

open Sys2Proof

/-- The block after a reset is that of the reset state; what stands outside the block is kept (R242),
and a waiting request is dropped (log 7). -/
theorem resetBlock_eq (s : State) :
    s.resetBlock = { State.reset with
      cfg := s.cfg, wire := s.wire, schedule := s.schedule, hostBus := s.hostBus } := rfl

/-- The reset state is one a reset of the block leaves alone. -/
theorem reset_resetBlock : State.reset.resetBlock = State.reset := resetBlock_eq State.reset

/-- Settles O43: the registers stand in the reset state as R27 lists them, and an empty buffer holds no
value at any address. -/
theorem resetState : Obligations.ResetState := by
  refine ⟨rfl, rfl, rfl, rfl, rfl, rfl, rfl, rfl, fun a => ?tx, fun a => ?rx, rfl, fun a => ?opRaw,
    rfl, rfl, rfl, rfl, rfl⟩
  case tx => exact memRead_nil a
  case rx => exact memRead_nil a
  case opRaw => exact memRead_nil a

/-- Settles O44: the reset state is a block after reset. -/
theorem resetMeetsTheInvariant : Obligations.ResetMeetsTheInvariant := by
  have hinv : StateInv State.reset.resetBlock := resetBlock_inv State.reset
  rwa [reset_resetBlock] at hinv

/-- Settles O55: the reset lands with the rest of the schedule left. -/
theorem resetAbandonsTheOperation : Obligations.ResetAbandonsTheOperation := by
  intro s rest hs
  refine ⟨_, ?_, resetBlock_eq { s with schedule := rest }⟩
  rw [step_input hs]
  rfl

end Sys2Proof.Machine
end
